-- ==== Sys2Proof/Word.lean ====
section
/-! DEFINITION. The word types of the Snowshoe SM core and its two point formats
(spec 00_scope.md R7, R11). -/

namespace Sys2Proof

/-- One byte. -/
abbrev Byte := BitVec 8

/-- One 64-bit limb, the unit of the host port (R65) and of every datum (R60). -/
abbrev Limb := BitVec 64

/-- A subscalar, the source's `ufp` (R11). -/
abbrev U128 := BitVec 128

/-- A scalar, or the 256 bits that store a field element (R11, R92). -/
abbrev U256 := BitVec 256

/-- A 12-bit word address of the host register space (20_memory.md R62). -/
abbrev WordAddr := BitVec 12

/-- An `ecpt_affine`: the pair `(x, y)`, 512 bits (R11). -/
structure Affine where
  x : U256
  y : U256
deriving DecidableEq, Repr, Inhabited

/-- An `ecpt`: a point in extended coordinates `(x, y, t, z)`, in that order, 1024 bits (R11). -/
structure Ecpt where
  x : U256
  y : U256
  t : U256
  z : U256
deriving DecidableEq, Repr, Inhabited

/-- The affine pair of all-zero bits, a reset value (70_reset_and_hazards.md R261). -/
def Affine.zero : Affine := ⟨0, 0⟩

/-- The all-zero tuple: `ec_zero` (46_external_collaborators.md R217), the selector's initial
accumulator and a reset value, never an operand of `ec_add` (R220). -/
def Ecpt.zero : Ecpt := ⟨0, 0, 0, 0⟩

end Sys2Proof
end

