-- ==== Sys2Proof/Syntax.lean ====
section
/-! DEFINITION. The five host commands (spec 30_encoding.md R82), one constructor per row of
spec/opcode_table.json. -/

namespace Sys2Proof

/-- The instructions of the block: the commands a host starts by writing a command word to `CMD`
(R82). Operands and results are in fixed registers (R83), so the only operand a command carries is
`MC` of `MUL_GEN` (R81). -/
inductive Instr where
  /-- `MASK_SCALAR`, source `ec_mask_scalar` (40_scalar_masking.md R100). -/
  | maskScalar
  /-- `MUL`, source `ec_mul` (45_drivers.md R180). -/
  | mul
  /-- `MUL_GEN`, source `ec_mul_gen` (R182); `mc` is `mul_cofactor`. -/
  | mulGen (mc : Bool)
  /-- `SIMUL`, source `ec_simul` (R184). -/
  | simul
  /-- `SIMUL_GEN`, source `ec_simul_gen` (R186). -/
  | simulGen
deriving DecidableEq, Repr

end Sys2Proof
end

