-- ==== Sys2Proof/WellFormed.lean ====
section
/-! DEFINITION. The fields of a command word and the checks that make it legal
(spec 30_encoding.md R80, R82, R86). -/

namespace Sys2Proof

/-- The four fields of a 64-bit command word, format `CW` (R80). -/
structure CommandWord where
  /-- Bits 3:0, `OP`. -/
  op : BitVec 4
  /-- Bits 7:4, must be 0. -/
  zeroLow : BitVec 4
  /-- Bit 8, `MC`. -/
  mc : Bool
  /-- Bits 63:9, must be 0. -/
  zeroHigh : BitVec 55
deriving DecidableEq, Repr

/-- `OP` is one of the five opcodes (R82); 0 and 6 to 15 are reserved (R86, R87). -/
def CommandWord.opcodeOk (f : CommandWord) : Bool := 1 ≤ f.op.toNat && f.op.toNat ≤ 5

/-- Bits 7:4 are 0 (R80). -/
def CommandWord.lowOk (f : CommandWord) : Bool := f.zeroLow == 0

/-- Bits 63:9 are 0 (R80). -/
def CommandWord.highOk (f : CommandWord) : Bool := f.zeroHigh == 0

/-- `MC` is 0 for every opcode but `MUL_GEN` (R80, R86). -/
def CommandWord.cofactorOk (f : CommandWord) : Bool := !f.mc || f.op == 3

/-- A legal command word: it meets the four checks (R82, R86). -/
def CommandWord.wellFormed (f : CommandWord) : Bool :=
  f.opcodeOk && f.lowOk && f.highOk && f.cofactorOk

/-- The opcode number of a command (R82). -/
def Instr.opcode : Instr → BitVec 4
  | .maskScalar => 1
  | .mul => 2
  | .mulGen _ => 3
  | .simul => 4
  | .simulGen => 5

/-- The `MC` bit of a command: `mul_cofactor` for `MUL_GEN`, 0 for the others (R80, R81). -/
def Instr.cofactor : Instr → Bool
  | .mulGen mc => mc
  | .maskScalar => false
  | .mul => false
  | .simul => false
  | .simulGen => false

/-- The fields of a command's word (R80, R82). -/
def Instr.fields (i : Instr) : CommandWord :=
  { op := i.opcode, zeroLow := 0, mc := i.cofactor, zeroHigh := 0 }

/-- A command is well formed when its word's fields are. -/
def Instr.wellFormed (i : Instr) : Bool := i.fields.wellFormed

/-- The four drivers, which clear and write `R`; `MASK_SCALAR` is none (45_drivers.md R172). -/
def Instr.isDriver : Instr → Bool
  | .maskScalar => false
  | .mul => true
  | .mulGen _ => true
  | .simul => true
  | .simulGen => true

end Sys2Proof
end

