-- ==== Sys2Proof/Decode.lean ====
section
/-! DEFINITION. Decoding a command word, total on any bytes and rejecting by name, and the encoder
(spec 30_encoding.md R80 to R82, R86, R87). -/

namespace Sys2Proof

/-- Why a command word is illegal (R86), or why there is no word. -/
inductive Reject where
  /-- Fewer than the eight bytes of a command word. -/
  | short
  /-- `OP` is 0 or 6 to 15. -/
  | reservedOpcode (op : BitVec 4)
  /-- A nonzero bit in 7:4. -/
  | reservedLow
  /-- A nonzero bit in 63:9. -/
  | reservedHigh
  /-- `MC = 1` with an opcode other than `MUL_GEN`. -/
  | cofactorNotAllowed
deriving DecidableEq, Repr

/-- The fields of a 64-bit command word (R80). -/
def fieldsOfWord (w : Limb) : CommandWord :=
  { op := w.extractLsb' 0 4
    zeroLow := w.extractLsb' 4 4
    mc := w.getLsbD 8
    zeroHigh := w.extractLsb' 9 55 }

/-- The 64-bit command word of some fields (R80), the highest field first. -/
def wordOfFields (f : CommandWord) : Limb :=
  f.zeroHigh ++ BitVec.ofBool f.mc ++ f.zeroLow ++ f.op

/-- The command that well-formed fields stand for (R82). -/
def instrOfFields (f : CommandWord) : Except Reject Instr :=
  if f.op = 1 then .ok .maskScalar
  else if f.op = 2 then .ok .mul
  else if f.op = 3 then .ok (.mulGen f.mc)
  else if f.op = 4 then .ok .simul
  else if f.op = 5 then .ok .simulGen
  else .error (.reservedOpcode f.op)

/-- Decode a command word (R82, R86): one word, decoded the same way in every state (R87). -/
def decodeWord (w : Limb) : Except Reject Instr :=
  let f := fieldsOfWord w
  if !f.opcodeOk then .error (.reservedOpcode f.op)
  else if !f.lowOk then .error .reservedLow
  else if !f.highOk then .error .reservedHigh
  else if !f.cofactorOk then .error .cofactorNotAllowed
  else instrOfFields f

/-- A word from its eight bytes, byte `n` in bits `8n+7:8n` (20_memory.md R61). -/
def wordOfBytes (b0 b1 b2 b3 b4 b5 b6 b7 : Byte) : Limb :=
  b7 ++ b6 ++ b5 ++ b4 ++ b3 ++ b2 ++ b1 ++ b0

/-- Byte `n` of a word: bits `8n+7:8n` (R61). -/
def byteOfWord (w : Limb) (n : Nat) : Byte := w.extractLsb' (8 * n) 8

/-- The eight bytes of a word, byte 0 first (R61). -/
def bytesOfWord (w : Limb) : List Byte := (List.range 8).map (byteOfWord w)

/-- Decode the command word at the head of a list of bytes and return the bytes after it. Every
command word is eight bytes (R80, R87). -/
def decode : List Byte → Except Reject (Instr × List Byte)
  | b0 :: b1 :: b2 :: b3 :: b4 :: b5 :: b6 :: b7 :: rest =>
    match decodeWord (wordOfBytes b0 b1 b2 b3 b4 b5 b6 b7) with
    | .ok i => .ok (i, rest)
    | .error r => .error r
  | _ => .error .short

/-- The command word of a command (R82). -/
def encode (i : Instr) : Limb := wordOfFields i.fields

/-- The bytes of a command's word, byte 0 first (R61). -/
def encodeBytes (i : Instr) : List Byte := bytesOfWord (encode i)

/-- The low `nbits` bits of `w` as a command word; a word has 64 bits (R80). -/
def tableWord (nbits w : Nat) : Limb := BitVec.ofNat 64 (w % 2 ^ nbits)

/-- The command the decoder reads from a table word of `nbits` bits, the bits above them 0. -/
def decodeTableWord (nbits w : Nat) : Option Instr :=
  match decode (bytesOfWord (tableWord nbits w)) with
  | .ok (i, _) => some i
  | .error _ => none

end Sys2Proof
end

