-- ==== Sys2Proof/Config.lean ====
section
/-! DEFINITION. What an implementation fixes: the configuration record `Cfg` with the external
collaborators `Curve` (spec 00_scope.md R6, 46_external_collaborators.md), and the one opaque
constant that stands for it. Nothing in Lean can evaluate that constant, so a statement about it
holds for every value of every parameter (log 7). -/

namespace Sys2Proof

/-- What `gls_decompose` returns: two sign bits and two unsigned 128-bit magnitudes (R223). -/
structure Decomposition where
  sa : Bool
  a : U128
  sb : Bool
  b : U128
deriving DecidableEq, Repr, Inhabited

/-- The external collaborators (R4, R211 to R225): total functions of the bits of their arguments
(R226). Their laws are in Sys2Proof/Safety.lean; no rule of the machine uses a law. `ec_set` and
`ec_zero` are a bit copy and the all-zero tuple (R217), so they are no parameters. -/
structure Curve where
  /-- `fe_mul`, the product of two field elements (R219). -/
  feMul : U256 → U256 → U256
  /-- `fe_set_smallk`, the field element of a small constant (R219); the core uses it at 1. -/
  feSetSmallk : Nat → U256
  /-- `ec_add` (R212). -/
  ecAdd : Ecpt → Ecpt → Ecpt
  /-- `ec_dbl` (R213). -/
  ecDbl : Ecpt → Ecpt
  /-- `ec_neg` (R214). -/
  ecNeg : Ecpt → Ecpt
  /-- `ec_cond_neg` (R214). -/
  ecCondNeg : Bool → Ecpt → Ecpt
  /-- `ec_cond_add` (R218). -/
  ecCondAdd : Bool → Ecpt → Ecpt → Ecpt
  /-- `ec_affine` (R215). -/
  ecAffine : Ecpt → Affine
  /-- `ec_expand` (R216). -/
  ecExpand : U256 → U256 → Ecpt
  /-- `gls_morph`, affine in, affine out (R222). -/
  glsMorph : U256 → U256 → Affine
  /-- `gls_decompose` (R223). -/
  glsDecompose : U256 → Decomposition
  /-- `neg_mod_q` (R225). -/
  negModQ : U256 → U256
deriving Inhabited

/-- The memories `TabRead` names (20_memory.md R68). -/
inductive TableName where
  | tab | gt0 | gt1 | gfix | sgt
deriving DecidableEq, Repr

/-- The configuration record (R6). Its fixed numbers (64-bit limbs, 256-bit scalars, 8 slots, the
comb tunings, the recoding lengths) stand in the widths and definitions that use them. -/
structure Cfg where
  /-- The external collaborators. -/
  curve : Curve
  /-- `P_FIELD`: the field's prime; no rule of the block reads it. -/
  pField : Nat
  /-- `D_CURVE`: the `d` of the curve equation; only the laws of Sys2Proof/Safety.lean read it. -/
  dCurve : U256
  /-- `Q_ORDER`: the subgroup order, an odd prime (`ParametersOk`); only the laws read it. -/
  qOrder : Nat
  /-- `G_AFFINE`: the generator; the ROM contents are a function of it (R159 to R162). -/
  gAffine : Affine
  /-- `LAMBDA`: the endomorphism's eigenvalue; only the laws read it. -/
  lambda : Nat
  /-- `ID_AFFINE`: what `ec_affine` writes for the identity (R215); only the laws read it. -/
  idAffine : Affine
  /-- `GEN_FIX_T`: the stored `t` limbs of `GFIX` (20_memory.md R69). -/
  genFixT : U256
  /-- `VT_TRACE`: the slots a variable-time selection reads, from table and index
  (43_table_selectors.md R141). -/
  vtTrace : TableName → Nat → List Nat
  /-- `LAT(OP, MC)`: the latency of a command, positive (`ParametersOk`); no rule reads it
  (70_reset_and_hazards.md R275). -/
  lat : Instr → Nat
deriving Inhabited

/-- The configuration of the block: every parameter of R6 as one free value (log 7). -/
opaque Config.cfg : Cfg

end Sys2Proof
end

