-- ==== Sys2Proof/Machine/State.lean ====
section
/-! DEFINITION. The state of the block as plain data (spec 10_state.md), the names used in it, the
reasons a step can stop, and the state after reset (70_reset_and_hazards.md R261). -/

namespace Sys2Proof.Machine

/-- The sequencer's phases (10_state.md R41); numbers in 30_encoding.md R85. -/
inductive Phase where
  | idle | setup | tableBuild | seed | iterate | correct | cofactor | affine | done
deriving DecidableEq, Repr

/-- The sequencer position `SEQ = (PHASE, II, SUB)` (R40). -/
structure Seq where
  phase : Phase
  /-- The ladder's loop counter. -/
  ii : BitVec 8
  /-- The index of the micro-operation inside the phase or iteration. -/
  sub : BitVec 8
deriving DecidableEq, Repr

/-- The point registers of type `ecpt` (R28 to R30). -/
inductive PointReg where
  | b0 | b1 | b2 | b3 | x | ts | tt
deriving DecidableEq, Repr

/-- The host's scalar operand registers (R21, R22). -/
inductive ScalarReg where
  | ka | kb
deriving DecidableEq, Repr

/-- The host's point operand registers (R23, R24). -/
inductive OperandPoint where
  | p | q
deriving DecidableEq, Repr

/-- The ROMs of affine entries (20_memory.md R68). -/
inductive AffineRom where
  | gt0 | gt1 | sgt
deriving DecidableEq, Repr

/-- The subscalar and base pairs `DECOMP` and `PREP` write: `(0, 1)` or `(2, 3)` (45_drivers.md
R178, R184). -/
inductive Pair where
  | lo | hi
deriving DecidableEq, Repr

/-- The external collaborators the core's rules call, as the trace names them (20_memory.md R74). -/
inductive Ext where
  | feMul | feSetSmallk | ecAdd | ecDbl | ecNeg | ecCondNeg | ecCondAdd | ecAffine | ecExpand
  | ecSet | glsMorph | glsDecompose | negModQ
deriving DecidableEq, Repr

/-- What an external call is given, by name and never by value (46_external_collaborators.md R227;
log 6). -/
inductive Loc where
  | scalar (r : ScalarReg)
  | operand (r : OperandPoint)
  | point (r : PointReg)
  /-- A table slot the generator has just read or built. -/
  | slot (i : Nat)
  /-- The entry or point a selector holds between its fetch and its destination. -/
  | entry
  /-- The affine pair `gls_morph` returned inside `PREP`. -/
  | morphed
deriving DecidableEq, Repr

/-- One event of the access and operation trace (20_memory.md R74). It carries no data value. -/
inductive Event where
  /-- `TabRead(mem, i)`. -/
  | rd (mem : TableName) (i : Nat)
  /-- `TabWrite(TAB, i)`. -/
  | wr (i : Nat)
  /-- A call of an external collaborator. -/
  | op (f : Ext) (args : List Loc)
deriving DecidableEq, Repr

/-- What happens next at the block's boundary (log 2): the host's transactions, the reset event,
and the scheduler's choice to let the core run. -/
inductive Turn where
  /-- `HostWrite(wa, v)` (20_memory.md R65). -/
  | write (wa : WordAddr) (v : Limb)
  /-- `HostRead(wa)` (R65). -/
  | read (wa : WordAddr)
  /-- One core step: one micro-operation when busy (45_drivers.md R170). -/
  | core
  /-- `HostWrite(CMD, cw)` and then the whole command it starts, as one transition (R175; log 1). -/
  | command (cw : Limb)
  /-- The reset event (70_reset_and_hazards.md R260). -/
  | reset
deriving DecidableEq, Repr

/-- The state of the block: every register of 10_state.md R21 to R45, and three fields of the
model's own (`trace`, `turns`, `reads`). -/
structure State where
  /-- `KA` (R21). -/
  ka : U256
  /-- `KB` (R22). -/
  kb : U256
  /-- `P = (PX, PY)` (R23). -/
  p : Affine
  /-- `Q = (QX, QY)` (R24). -/
  q : Affine
  /-- `R = (RX, RY)` (R25). -/
  r : Affine
  /-- `S0`, the sign word's subscalar (R26). -/
  s0 : U128
  /-- `S1` (R26). -/
  s1 : U128
  /-- `S2` (R26). -/
  s2 : U128
  /-- `S3` (R26). -/
  s3 : U128
  /-- `RB`, the comb buffer (R27). -/
  rb : U256
  /-- `B0` (R28). -/
  b0 : Ecpt
  /-- `B1` (R28). -/
  b1 : Ecpt
  /-- `B2` (R28). -/
  b2 : Ecpt
  /-- `B3` (R28). -/
  b3 : Ecpt
  /-- `X`, the accumulator (R29). -/
  x : Ecpt
  /-- `TS` (R30). -/
  ts : Ecpt
  /-- `TT` (R30). -/
  tt : Ecpt
  /-- `TAB[0..7]` (R31). -/
  tab : Vector Ecpt 8
  /-- `SG0` (R35). -/
  sg0 : Bool
  /-- `SG1` (R35). -/
  sg1 : Bool
  /-- `SG2` (R35). -/
  sg2 : Bool
  /-- `SG3` (R35). -/
  sg3 : Bool
  /-- `LSB` (R36). -/
  lsb : Bool
  /-- `CLSB` (R37). -/
  clsb : Bool
  /-- `SEQ` (R40); its phase is `STATUS.PHASE` (R45). -/
  seq : Seq
  /-- `OPL`, the latched opcode (R43). -/
  opl : BitVec 4
  /-- `MCL`, the latched `mul_cofactor` (R43). -/
  mcl : Bool
  /-- `STATUS.BUSY` (R45). -/
  busy : Bool
  /-- `STATUS.DONE` (R45). -/
  done : Bool
  /-- `STATUS.ERR_OP` (R45). -/
  errOp : Bool
  /-- `STATUS.ERR_BUSY` (R45). -/
  errBusy : Bool
  /-- `STATUS.ERR_ADDR` (R45). -/
  errAddr : Bool
  /-- MODEL: the trace of the command in progress or last completed, oldest first (R74; log 5). -/
  trace : List Event
  /-- MODEL: what happens next at the boundary (log 2). -/
  turns : List Turn
  /-- MODEL: the words the host has read, oldest first (log 4). -/
  reads : List Limb
deriving DecidableEq, Repr

/-- The reasons a step can stop with a fault. The hardware has none (60_exceptions.md R240). -/
inductive Fault where
  /-- Raised by a core step in a state no run reaches: `BUSY = 1` while `OPL`, `MCL` name no command
  or `SEQ` names no micro-operation of its list. Safe: it claims nothing of such states (log 11). -/
  | sequencerLost
deriving DecidableEq, Repr

/-- The reasons a step can be refused. No meaning of this model refuses. -/
inductive Refusal where
  /-- Raised by an arm of `exec` for an instruction that has no meaning yet; there is none. Safe. -/
  | notModelled (mnemonic : String)
deriving DecidableEq, Repr

/-- The machine right after reset: every register 0, `PHASE = IDLE` (70_reset_and_hazards.md R261).
The model's own three fields are empty (logs 2, 4, 5). -/
def State.reset : State :=
  { ka := 0, kb := 0, p := .zero, q := .zero, r := .zero
    s0 := 0, s1 := 0, s2 := 0, s3 := 0, rb := 0
    b0 := .zero, b1 := .zero, b2 := .zero, b3 := .zero, x := .zero, ts := .zero, tt := .zero
    tab := Vector.replicate 8 .zero
    sg0 := false, sg1 := false, sg2 := false, sg3 := false, lsb := false, clsb := false
    seq := { phase := .idle, ii := 0, sub := 0 }
    opl := 0, mcl := false
    busy := false, done := false, errOp := false, errBusy := false, errAddr := false
    trace := [], turns := [], reads := [] }

end Sys2Proof.Machine
end

