-- ==== Sys2Proof/Machine/Rom.lean ====
section
/-! DEFINITION. The static tables as a function of `Cfg` (spec 44_comb_recoders.md R159 to R162,
20_memory.md R69; log 8). They are no state (10_state.md R33). -/

namespace Sys2Proof.Machine

/-- `n` times the point that `u` represents, by doubling and adding from the top bit of `n`, for
`n` of at most `fuel + 1` bits and at least 1: the offline generator's multiple of `G` (log 8). -/
def multiple (c : Curve) : Nat → Nat → Ecpt → Ecpt
  | 0, _, u => u
  | fuel + 1, n, u =>
    if n ≤ 1 then u
    else
      let twice := c.ecDbl (multiple c fuel (n / 2) u)
      if n % 2 = 1 then c.ecAdd twice u else twice

/-- The canonical affine encoding of `n·G` (R162). -/
def affineMultipleOfG (cfg : Cfg) (n : Nat) : Affine :=
  cfg.curve.ecAffine (multiple cfg.curve 256 n (cfg.curve.ecExpand cfg.gAffine.x cfg.gAffine.y))

/-- `1 + Σ i[wp−1]·2^(d·wp)` over the rows `wp` from 1 to `rows` (R159, R161). -/
def combMultiple (d rows i : Nat) : Nat :=
  1 + ((List.range rows).map fun j => (i / 2 ^ j % 2) * 2 ^ (d * (j + 1))).sum

/-- The number `n` with entry `i` of a ROM equal to `affine(n·G)`: `GT0`, `GT1` (R159), `SGT`
(R161). -/
def romMultiple : AffineRom → Nat → Nat
  | .gt0, i => combMultiple 36 6 i
  | .gt1, i => 2 ^ 18 * combMultiple 36 6 i
  | .sgt, i => combMultiple 32 7 i

/-- Slot `i` of an affine ROM (R159, R161). -/
def romEntry (cfg : Cfg) (m : AffineRom) (i : Nat) : Affine :=
  affineMultipleOfG cfg (romMultiple m i)

/-- `GFIX`: `2^252·G` (R160) as an extended point with the stored `t` words `GEN_FIX_T` and
`z.limb[0..3] = (1, 0, 0, 0)` (20_memory.md R69). -/
def gfix (cfg : Cfg) : Ecpt :=
  let a := affineMultipleOfG cfg (2 ^ 252)
  { x := a.x, y := a.y, t := cfg.genFixT, z := 1 }

/-- The name a ROM has in the trace. -/
def AffineRom.name : AffineRom → TableName
  | .gt0 => .gt0
  | .gt1 => .gt1
  | .sgt => .sgt

/-- How many slots a ROM has (20_memory.md R62). -/
def AffineRom.slots : AffineRom → Nat
  | .gt0 => 64
  | .gt1 => 64
  | .sgt => 128

end Sys2Proof.Machine
end

