-- ==== Sys2Proof/Machine/Ops.lean ====
section
/-! DEFINITION. The named operations over registers, the table RAM, the ROM and the trace, and the
masked scan (spec 20_memory.md R60, R68, R74; 43_table_selectors.md R130 to R132, R139 to R141).

There is no exception entry and no return to define here: the block raises none and nothing traps
(60_exceptions.md R240, R248, R249). -/

namespace Sys2Proof.Machine

/-! ### Limbs and masks -/

/-- Limb `j` of a 256-bit value, limb 0 least significant (R60). -/
def limb (v : U256) (j : Nat) : Limb := v.extractLsb' (64 * j) 64

/-- The 256-bit value of four limbs (R60). -/
def ofLimbs (l0 l1 l2 l3 : Limb) : U256 := l3 ++ l2 ++ l1 ++ l0

/-- `v` with limb `j` replaced. -/
def setLimb (v : U256) (j : Nat) (l : Limb) : U256 :=
  ofLimbs (if j = 0 then l else limb v 0) (if j = 1 then l else limb v 1)
    (if j = 2 then l else limb v 2) (if j = 3 then l else limb v 3)

/-- `mask(c)`: all ones if `c = 1`, all zeros if `c = 0` (00_scope.md R8). -/
def maskOf (w : Nat) (c : Bool) : BitVec w := if c then BitVec.allOnes w else 0

/-- `gen_mask(i, k)`: all ones when `i = k`, else all zeros, from the borrow of `(i ^ k) − 1`
(43_table_selectors.md R130; log 15). -/
def genMask (i k : Nat) : Limb :=
  ((BitVec.ofNat 64 i ^^^ BitVec.ofNat 64 k) - 1#64).sshiftRight 63

/-- `xor_mask` on the four limbs of one coordinate (R131). -/
def xorMask (acc entry : U256) (m : Limb) : U256 :=
  ofLimbs (limb acc 0 ^^^ (limb entry 0 &&& m)) (limb acc 1 ^^^ (limb entry 1 &&& m))
    (limb acc 2 ^^^ (limb entry 2 &&& m)) (limb acc 3 ^^^ (limb entry 3 &&& m))

/-- `xor_mask` on the 16 limbs of an `ecpt` (R131). -/
def xorMaskEcpt (acc entry : Ecpt) (m : Limb) : Ecpt :=
  { x := xorMask acc.x entry.x m, y := xorMask acc.y entry.y m
    t := xorMask acc.t entry.t m, z := xorMask acc.z entry.z m }

/-- `xor_mask` on the 8 limbs of an `ecpt_affine` (R131). -/
def xorMaskAffine (acc entry : Affine) (m : Limb) : Affine :=
  { x := xorMask acc.x entry.x m, y := xorMask acc.y entry.y m }

/-! ### The trace -/

/-- Append events to the trace (20_memory.md R74). -/
def State.emitAll (s : State) (es : List Event) : State := { s with trace := s.trace ++ es }

/-- Append one event to the trace (R74). -/
def State.emit (s : State) (e : Event) : State := s.emitAll [e]

/-- Record a call of an external collaborator (R74, 46_external_collaborators.md R227). -/
def State.call (s : State) (f : Ext) (args : List Loc) : State := s.emit (.op f args)

/-! ### Registers -/

/-- A point register's value. -/
def State.point (s : State) : PointReg → Ecpt
  | .b0 => s.b0
  | .b1 => s.b1
  | .b2 => s.b2
  | .b3 => s.b3
  | .x => s.x
  | .ts => s.ts
  | .tt => s.tt

/-- Write a point register. Each name is one storage location and none is hard-wired
(10_state.md R34). -/
def State.setPoint (s : State) (r : PointReg) (v : Ecpt) : State :=
  match r with
  | .b0 => { s with b0 := v }
  | .b1 => { s with b1 := v }
  | .b2 => { s with b2 := v }
  | .b3 => { s with b3 := v }
  | .x => { s with x := v }
  | .ts => { s with ts := v }
  | .tt => { s with tt := v }

/-- A scalar operand register's value. -/
def State.scalar (s : State) : ScalarReg → U256
  | .ka => s.ka
  | .kb => s.kb

/-- A point operand register pair's value. -/
def State.operand (s : State) : OperandPoint → Affine
  | .p => s.p
  | .q => s.q

/-! ### Table accesses -/

/-- The bits of slot `i` of `TAB`, with no event. -/
def State.slot (s : State) (i : Nat) : Ecpt := s.tab[i]?.getD .zero

/-- `TabRead(TAB, i)` (00_scope.md R15, 20_memory.md R68). -/
def tabRead (i : Nat) (s : State) : Ecpt × State := (s.slot i, s.emit (.rd .tab i))

/-- `TabWrite(TAB, i, v)` (R15, R68). -/
def tabWrite (i : Nat) (v : Ecpt) (s : State) : State :=
  { s with tab := s.tab.setIfInBounds i v }.emit (.wr i)

/-- `TabRead` of an affine ROM (R68). -/
def romRead (cfg : Cfg) (m : AffineRom) (i : Nat) (s : State) : Affine × State :=
  (romEntry cfg m i, s.emit (.rd m.name i))

/-- `TabRead(GFIX, 0)` (R68). -/
def gfixRead (cfg : Cfg) (s : State) : Ecpt × State := (gfix cfg, s.emit (.rd .gfix 0))

/-- `ScanSelect(TAB, 8, k)`: every slot is read, in increasing order (43_table_selectors.md
R132). -/
def scanTab (k : Nat) (s : State) : Ecpt × State :=
  (List.range 8).foldl
    (fun acc i =>
      let e := tabRead i acc.2
      (xorMaskEcpt acc.1 e.1 (genMask i k), e.2))
    (.zero, s)

/-- `ScanSelect` of an affine ROM (R132). -/
def scanRom (cfg : Cfg) (m : AffineRom) (k : Nat) (s : State) : Affine × State :=
  (List.range m.slots).foldl
    (fun acc i =>
      let e := romRead cfg m i acc.2
      (xorMaskAffine acc.1 e.1 (genMask i k), e.2))
    (.zero, s)

/-- The slots a variable-time selection of slot `k` reads: `VT_TRACE`, which must contain `k`; a
parameter value without it gets it appended (R141; log 9). -/
def vtSlots (cfg : Cfg) (m : TableName) (k : Nat) : List Nat :=
  let l := cfg.vtTrace m k
  if k ∈ l then l else l ++ [k]

/-- The fetch of `SEL2`: the scan when `ct = 1`, a variable-time read when `ct = 0`; the fetched
bits are the same (R133, R140, R141). -/
def fetchTab (cfg : Cfg) (ct : Bool) (k : Nat) (s : State) : Ecpt × State :=
  if ct then scanTab k s
  else (s.slot k, s.emitAll ((vtSlots cfg .tab k).map (Event.rd .tab)))

/-- The variable-time fetch of an affine ROM, the fetch of `SELCOMB81` (R138, R141). -/
def fetchRomVt (cfg : Cfg) (m : AffineRom) (k : Nat) (s : State) : Affine × State :=
  (romEntry cfg m k, s.emitAll ((vtSlots cfg m.name k).map (Event.rd m.name)))

/-- `AffineToExt(e)`: `t = x·y`, `z = 1`, two external calls (R139). -/
def affineToExt (c : Curve) (e : Affine) (s : State) : Ecpt × State :=
  ({ x := e.x, y := e.y, t := c.feMul e.x e.y, z := c.feSetSmallk 1 },
    (s.call .feMul [.entry]).call .feSetSmallk [])

/-- `ext.ec_cond_neg` on a fetched entry (R133, R135, R137, R138). The bit is data and is not in
the event (46_external_collaborators.md R227). -/
def condNegEntry (c : Curve) (neg : Bool) (e : Ecpt) (s : State) : Ecpt × State :=
  (c.ecCondNeg neg e, s.call .ecCondNeg [.entry])

end Sys2Proof.Machine
end

