-- ==== Sys2Proof/Machine/Flags.lean ====
section
/-! DEFINITION. The status word, the sticky error flags and the recoders' returned bits
(spec 10_state.md R36, R37, R45; 30_encoding.md R84, R85; 60_exceptions.md R242 to R245). There are
no condition codes (10_state.md R38). -/

namespace Sys2Proof.Machine

/-- The encoding of `PHASE` (30_encoding.md R85). -/
def phaseCode : Phase → BitVec 4
  | .idle => 0
  | .setup => 1
  | .tableBuild => 2
  | .seed => 3
  | .iterate => 4
  | .correct => 5
  | .cofactor => 6
  | .affine => 7
  | .done => 8

/-- The `STATUS` word: `BUSY` 0, `DONE` 1, `PHASE` 7:4, `ERR_OP` 8, `ERR_BUSY` 9, `ERR_ADDR` 10,
everything else 0 (10_state.md R45, 30_encoding.md R84). -/
def statusWord (s : State) : Limb :=
  (0 : BitVec 53) ++ BitVec.ofBool s.errAddr ++ BitVec.ofBool s.errBusy ++ BitVec.ofBool s.errOp ++
    phaseCode s.seq.phase ++ (0 : BitVec 2) ++ BitVec.ofBool s.done ++ BitVec.ofBool s.busy

/-- A host write of `v` to `STATUS`: write-1-to-clear on the three error flags, every other bit
ignored (30_encoding.md R84). -/
def clearErrors (v : Limb) (s : State) : State :=
  { s with
    errOp := s.errOp && !v.getLsbD 8
    errBusy := s.errBusy && !v.getLsbD 9
    errAddr := s.errAddr && !v.getLsbD 10 }

/-- `STATUS.ERR_OP <- 1` (60_exceptions.md R242). -/
def raiseErrOp (s : State) : State := { s with errOp := true }

/-- `STATUS.ERR_BUSY <- 1` (R243). -/
def raiseErrBusy (s : State) : State := { s with errBusy := true }

/-- `STATUS.ERR_ADDR <- 1` (R244). -/
def raiseErrAddr (s : State) : State := { s with errAddr := true }

/-- The GLV-SAC recoder's returned bit `lsb = (a & 1) ^ 1` (10_state.md R36,
41_glv_sac_recoders.md R110). -/
def recodeLsb (a : U128) : Bool := !a.getLsbD 0

/-- The comb recoder's returned bit `lsb = (k & 1) ^ 1` (10_state.md R37, 44_comb_recoders.md
R151). -/
def combLsb (k : U256) : Bool := !k.getLsbD 0

end Sys2Proof.Machine
end

