-- ==== Sys2Proof/Machine/Recode.lean ====
section
/-! DEFINITION. The recoders: GLV-SAC (spec 41_glv_sac_recoders.md R110, R111) and comb
(44_comb_recoders.md R150 to R153). -/

namespace Sys2Proof.Machine

/-- The recoded sign word: subtract `lsb`, shift right by 1, set bit `len − 1` (R110). -/
def recodeSign (len : Nat) (a : U128) : U128 :=
  ((a - (BitVec.ofBool (recodeLsb a)).setWidth 128) >>> 1) ||| (1#128 <<< (len - 1))

/-- One iteration of the companion loop at position `i`: the masked add of R110. The bit of the
companion is that of the current word. -/
def companionStep (a : U128) (b : U128) (i : Nat) : U128 :=
  let m := a.getLsbD i ^^ true
  b + ((BitVec.ofBool (b.getLsbD i && m)).setWidth 128 <<< (i + 1))

/-- The recoded companion under the recoded sign word `a`, positions 0 to `len − 2` (R110). -/
def recodeCompanion (len : Nat) (a b : U128) : U128 :=
  (List.range (len - 1)).foldl (companionStep a) b

/-- `RECODE2(len)` (R110). -/
def recode2 (len : Nat) (s : State) : State :=
  let a := recodeSign len s.s0
  { s with s0 := a, s1 := recodeCompanion len a s.s1, lsb := recodeLsb s.s0 }

/-- `RECODE4(len)`: the same mask on three companions that do not interact (R111). -/
def recode4 (len : Nat) (s : State) : State :=
  let a := recodeSign len s.s0
  { s with
    s0 := a, s1 := recodeCompanion len a s.s1, s2 := recodeCompanion len a s.s2
    s3 := recodeCompanion len a s.s3, lsb := recodeLsb s.s0 }

/-- The scalar the comb recoder works on: `k`, or `q − k` when `k` is even, by mask (R151). -/
def combScalar (k nk : U256) : U256 :=
  let m := maskOf 256 (combLsb k)
  (k &&& ~~~m) ||| (nk &&& m)

/-- Step 2 of the comb recoder on limb 0: the low `d` bits become the sign word (R151). -/
def combSignWindow (d : Nat) (b : U256) : U256 :=
  let dBit : Limb := 1#64 <<< (d - 1)
  let low : Limb := dBit - 1#64
  let l := limb b 0
  setLimb b 0 ((l &&& ~~~low) ||| dBit ||| ((l >>> 1) &&& low))

/-- One iteration of the comb recoder's loop at bit `i` (R151): `b >> (i mod d)` reads the sign
window, `b >> i` the current bit. -/
def combCarryStep (d : Nat) (b : U256) (i : Nat) : U256 :=
  let bit := ((b >>> (i % d)) ^^^ 1#256) &&& (b >>> i) &&& 1#256
  b + (bit <<< (i + 1))

/-- The recoded buffer of a working scalar: step 2, then bits `d` to `l − 1` in order (R151). -/
def combRecode (d l : Nat) (b : U256) : U256 :=
  ((List.range (l - d)).map (d + ·)).foldl (combCarryStep d) (combSignWindow d b)

/-- `COMBREC(d, l)` from `KA` to `RB` and `CLSB`; `neg_mod_q` is always computed (R151, R163). -/
def combrec (cfg : Cfg) (d l : Nat) (s : State) : State :=
  let nk := cfg.curve.negModQ s.ka
  { s with rb := combRecode d l (combScalar s.ka nk), clsb := combLsb s.ka }.call
    .negModQ [.scalar .ka]

/-- `COMBREC72` = `COMBREC(36, 252)` (R152). -/
def combrec72 (cfg : Cfg) (s : State) : State := combrec cfg 36 252 s

/-- `COMBREC81` = `COMBREC(32, 256)` (R153). -/
def combrec81 (cfg : Cfg) (s : State) : State := combrec cfg 32 256 s

end Sys2Proof.Machine
end

