-- ==== Sys2Proof/Machine/Operands.lean ====
section
/-! DEFINITION. The data encodings the spec fixes: window indices, negation bits and comb bit
positions (30_encoding.md R88 to R91; 43_table_selectors.md R133, R135, R137, R138). -/

namespace Sys2Proof.Machine

/-- The m=2 window index `k` for sign word `a` and companion `b` (R88, R133). -/
def sel2Index (a b : U128) (index : Nat) : Nat :=
  let bits := a >>> index
  ((((bits ^^^ (bits >>> 1)) &&& 1#128) <<< 2) ||| ((b >>> index) &&& 3#128)).toNat

/-- The m=2 negation bit: 1 when bit `index + 1` of the sign word is 0 (R88, R133). -/
def sel2Neg (a : U128) (index : Nat) : Bool :=
  ((((a >>> index) >>> 1) &&& 1#128) ^^^ 1#128) == 1#128

/-- The m=4 window index `k = b[i] + 2·c[i] + 4·d[i]` (R89, R135). -/
def sel4Index (b c d : U128) (index : Nat) : Nat :=
  (((b >>> index) &&& 1#128) ||| (((c >>> index) &&& 1#128) <<< 1) |||
    (((d >>> index) &&& 1#128) <<< 2)).toNat

/-- The m=4 negation bit: 1 when the digit at this column is −1 (R89, R135). -/
def sel4Neg (a : U128) (index : Nat) : Bool := (((a >>> index) &&& 1#128) ^^^ 1#128) == 1#128

/-- Comb bit access: row `wp`, sub-table `vp`, column position `ep` of the recoded buffer is bit
`wp·d + vp·e + ep` (44_comb_recoders.md R156; for tuning 81, `(wp << 5) + ep`, R91). -/
def combBit (rb : U256) (d e wp vp ep : Nat) : Bool := rb.getLsbD (wp * d + vp * e + ep)

/-- The table index of a comb column: row `wp` at index bit `wp − 1`, for rows 1 to `rows`
(R90, R91, R137, R138). -/
def combIndex (rb : U256) (d e rows vp ep : Nat) : Nat :=
  (List.range rows).foldl
    (fun idx j => idx ||| ((combBit rb d e (j + 1) vp ep).toNat <<< j)) 0

/-- The table index of tuning 72 (R137, R157). -/
def combIndex72 (rb : U256) (vp ep : Nat) : Nat := combIndex rb 36 18 6 vp ep

/-- The sign bit of a column of tuning 72, row 0 (R137). -/
def combSign72 (rb : U256) (vp ep : Nat) : Bool := combBit rb 36 18 0 vp ep

/-- The table index of tuning 81 (R138, R158). -/
def combIndex81 (rb : U256) (ep : Nat) : Nat := combIndex rb 32 32 7 0 ep

/-- The sign bit of a column of tuning 81, row 0 (R138). -/
def combSign81 (rb : U256) (ep : Nat) : Bool := combBit rb 32 32 0 0 ep

/-- "The top carry bit": bit 252 of `RB` (R155, 45_drivers.md R182). -/
def topCarry (rb : U256) : Bool := rb.getLsbD 252

end Sys2Proof.Machine
end

