-- ==== Sys2Proof/Machine/Select.lean ====
section
/-! DEFINITION. The table selectors (spec 43_table_selectors.md R133, R135, R137, R138): index,
fetch, conditional negation. -/

namespace Sys2Proof.Machine

/-- `SEL2(index, ct) -> dest` (R133). -/
def sel2 (cfg : Cfg) (index : Nat) (ct : Bool) (dest : PointReg) (s : State) : State :=
  let e := fetchTab cfg ct (sel2Index s.s0 s.s1 index) s
  let n := condNegEntry cfg.curve (sel2Neg s.s0 index) e.1 e.2
  n.2.setPoint dest n.1

/-- `SEL4(index) -> dest`, always constant-time (R135). -/
def sel4 (cfg : Cfg) (index : Nat) (dest : PointReg) (s : State) : State :=
  let e := scanTab (sel4Index s.s1 s.s2 s.s3 index) s
  let n := condNegEntry cfg.curve (sel4Neg s.s0 index) e.1 e.2
  n.2.setPoint dest n.1

/-- One half of `SELCOMB72(ep)`: scan, expand, negate when the sign bit is 0 (R137). -/
def selcomb72Half (cfg : Cfg) (m : AffineRom) (vp ep : Nat) (dest : PointReg) (s : State) : State :=
  let e := scanRom cfg m (combIndex72 s.rb vp ep) s
  let r := affineToExt cfg.curve e.1 e.2
  let n := condNegEntry cfg.curve (combSign72 s.rb vp ep ^^ true) r.1 r.2
  n.2.setPoint dest n.1

/-- `SELCOMB72(ep) -> (TS, TT)`: sub-table 0 from `GT0`, then sub-table 1 from `GT1` (R137). -/
def selcomb72 (cfg : Cfg) (ep : Nat) (s : State) : State :=
  selcomb72Half cfg .gt1 1 ep .tt (selcomb72Half cfg .gt0 0 ep .ts s)

/-- `SELCOMB81(ep) -> TT`, variable-time; `CLSB` is folded into the negation bit (R138, R140,
45_drivers.md R188). -/
def selcomb81 (cfg : Cfg) (ep : Nat) (s : State) : State :=
  let e := fetchRomVt cfg .sgt (combIndex81 s.rb ep) s
  let r := affineToExt cfg.curve e.1 e.2
  let n := condNegEntry cfg.curve ((combSign81 s.rb ep ^^ true) ^^ s.clsb) r.1 r.2
  n.2.setPoint .tt n.1

end Sys2Proof.Machine
end

