-- ==== Sys2Proof/Machine/TableGen.lean ====
section
/-! DEFINITION. The on-the-fly table generators (spec 42_table_generators.md R120, R122), in the
spec's computation order, with the accesses and calls in the trace in the order of 95_test_vectors.md
2.3. -/

namespace Sys2Proof.Machine

/-- `TAB[dst] <- ext.ec_set(B0)`, a bit copy (46_external_collaborators.md R217). -/
def copyBase (dst : Nat) (s : State) : State :=
  tabWrite dst s.b0 (s.call .ecSet [.point .b0])

/-- `TAB[dst] <- ext.ec_add(u, v)` for two point registers. -/
def addPointsToSlot (c : Curve) (dst : Nat) (u v : PointReg) (s : State) : State :=
  tabWrite dst (c.ecAdd (s.point u) (s.point v)) (s.call .ecAdd [.point u, .point v])

/-- `TAB[dst] <- ext.ec_add(TAB[src], v)`: the slot is read, then the call, then the write. -/
def addSlotToSlot (c : Curve) (dst src : Nat) (v : PointReg) (s : State) : State :=
  let e := tabRead src s
  tabWrite dst (c.ecAdd e.1 (s.point v)) (e.2.call .ecAdd [.slot src, .point v])

/-- `TS <- ext.ec_neg(B1)` (R120). -/
def negateB1 (c : Curve) (s : State) : State :=
  { s with ts := c.ecNeg s.b1 }.call .ecNeg [.point .b1]

/-- `TT <- ext.ec_dbl(B0)` (R120). -/
def doubleB0 (c : Curve) (s : State) : State :=
  { s with tt := c.ecDbl s.b0 }.call .ecDbl [.point .b0]

/-- `GENTAB2` (R120): slots `3A, 3A+B, 3A+2B, 3A+3B, A, A−B, A+2B, A+B` of `A = B0`, `B = B1`;
`TS`, `TT` are scratch. -/
def gentab2 (c : Curve) (s : State) : State :=
  let s := negateB1 c s
  let s := copyBase 4 s
  let s := addPointsToSlot c 5 .b0 .ts s
  let s := addPointsToSlot c 7 .b0 .b1 s
  let s := addSlotToSlot c 6 7 .b1 s
  let s := doubleB0 c s
  let s := addPointsToSlot c 0 .tt .b0 s
  let s := addSlotToSlot c 1 0 .b1 s
  let s := addSlotToSlot c 2 1 .b1 s
  addSlotToSlot c 3 2 .b1 s

/-- `GENTAB4` (R122): slot `k` holds `A + k[0]·B + k[1]·C + k[2]·D` of `A..D = B0..B3`. -/
def gentab4 (c : Curve) (s : State) : State :=
  let s := copyBase 0 s
  let s := addSlotToSlot c 1 0 .b1 s
  let s := addSlotToSlot c 2 0 .b2 s
  let s := addSlotToSlot c 3 1 .b2 s
  let s := addSlotToSlot c 4 0 .b3 s
  let s := addSlotToSlot c 5 1 .b3 s
  let s := addSlotToSlot c 6 2 .b3 s
  addSlotToSlot c 7 3 .b3 s

end Sys2Proof.Machine
end

