-- ==== Sys2Proof/Machine/MicroOp.lean ====
section
/-! DEFINITION. The micro-operations of the sequencer and what each does (spec 40_scalar_masking.md
R100; 45_drivers.md R178, R180, R182, R184, R186, R189 to R191). They have no encoding and the host
cannot invoke one. -/

namespace Sys2Proof.Machine

/-- The micro-operations the command lists name. -/
inductive MicroOp where
  /-- The step of `MASK_SCALAR` (R100). -/
  | mask
  /-- `DECOMP(K)` into subscalars and signs `(0, 1)` or `(2, 3)` (R178). -/
  | decomp (k : ScalarReg) (pair : Pair)
  /-- `PREP(A)` into bases `(0, 1)` or `(2, 3)` (R178). -/
  | prep (a : OperandPoint) (pair : Pair)
  /-- `RECODE2(len)` (R110). -/
  | recode2 (len : Nat)
  /-- `RECODE4(len)` (R111). -/
  | recode4 (len : Nat)
  /-- `COMBREC72` (R152). -/
  | combrec72
  /-- `COMBREC81` (R153). -/
  | combrec81
  /-- `GENTAB2` (R120). -/
  | gentab2
  /-- `GENTAB4` (R122). -/
  | gentab4
  /-- `SEL2(index, ct) -> dest` (R133). -/
  | sel2 (index : Nat) (ct : Bool) (dest : PointReg)
  /-- `SEL4(index) -> dest` (R135). -/
  | sel4 (index : Nat) (dest : PointReg)
  /-- `SELCOMB72(ep) -> (TS, TT)` (R137). -/
  | selcomb72 (ep : Nat)
  /-- `SELCOMB81(ep) -> TT` (R138). -/
  | selcomb81 (ep : Nat)
  /-- `X <- ext.ec_dbl(X)`. -/
  | dbl
  /-- `X <- ext.ec_add(u, v)`. -/
  | add (u v : PointReg)
  /-- `X <- ext.ec_cond_add(LSB, X, B0)` (R189). -/
  | correctGlv
  /-- `TS <- TabRead(GFIX, 0) ; X <- ext.ec_cond_add(RB[252], X, TS)` (R182). -/
  | correctFix
  /-- `X <- ext.ec_cond_neg(CLSB, X)` (R182). -/
  | correctSign
  /-- `R <- ext.ec_affine(X)` (R191). -/
  | affine
deriving DecidableEq, Repr

/-- The value `MASK_SCALAR` leaves: limb 3 loses its top five bits (R100). -/
def maskScalar (k : U256) : U256 := setLimb k 3 (limb k 3 &&& 0x07FFFFFFFFFFFFFF#64)

/-- `DECOMP(K) -> (SGi, Si, SGj, Sj)` (R178). -/
def decomp (c : Curve) (k : ScalarReg) (pair : Pair) (s : State) : State :=
  let d := c.glsDecompose (s.scalar k)
  let s := s.call .glsDecompose [.scalar k]
  match pair with
  | .lo => { s with sg0 := d.sa, s0 := d.a, sg1 := d.sb, s1 := d.b }
  | .hi => { s with sg2 := d.sa, s2 := d.a, sg3 := d.sb, s3 := d.b }

/-- The base registers of a pair (10_state.md R28). -/
def Pair.bases : Pair → PointReg × PointReg
  | .lo => (.b0, .b1)
  | .hi => (.b2, .b3)

/-- The decomposition signs of a pair (10_state.md R35). -/
def State.signs (s : State) : Pair → Bool × Bool
  | .lo => (s.sg0, s.sg1)
  | .hi => (s.sg2, s.sg3)

/-- `PREP(A; SGi, SGj) -> (Bi, Bj)`: expand `A` and `φ(A)`, then negate each by its sign (R178). -/
def prep (c : Curve) (a : OperandPoint) (pair : Pair) (s : State) : State :=
  let v := s.operand a
  let i := pair.bases.1
  let j := pair.bases.2
  let sg := s.signs pair
  let s := (s.setPoint i (c.ecExpand v.x v.y)).call .ecExpand [.operand a]
  let e := c.glsMorph v.x v.y
  let s := s.call .glsMorph [.operand a]
  let s := (s.setPoint j (c.ecExpand e.x e.y)).call .ecExpand [.morphed]
  let s := (s.setPoint i (c.ecCondNeg sg.1 (s.point i))).call .ecCondNeg [.point i]
  (s.setPoint j (c.ecCondNeg sg.2 (s.point j))).call .ecCondNeg [.point j]

/-- `X <- ext.ec_dbl(X)`. -/
def doubleX (c : Curve) (s : State) : State :=
  { s with x := c.ecDbl s.x }.call .ecDbl [.point .x]

/-- `X <- ext.ec_add(u, v)`. -/
def addToX (c : Curve) (u v : PointReg) (s : State) : State :=
  { s with x := c.ecAdd (s.point u) (s.point v) }.call .ecAdd [.point u, .point v]

/-- The correction of the GLV-SAC drivers: `B0` is added when `LSB = 1` (R189). -/
def correctGlv (c : Curve) (s : State) : State :=
  { s with x := c.ecCondAdd s.lsb s.x s.b0 }.call .ecCondAdd [.point .x, .point .b0]

/-- The carry correction of `MUL_GEN`: `GFIX` is added when `RB[252] = 1` (R182, R192). -/
def correctFix (cfg : Cfg) (s : State) : State :=
  let e := gfixRead cfg s
  let s := { e.2 with ts := e.1 }
  { s with x := cfg.curve.ecCondAdd (topCarry s.rb) s.x s.ts }.call .ecCondAdd
    [.point .x, .point .ts]

/-- The sign correction of `MUL_GEN`: `X` is negated when `CLSB = 1` (R182, R192). -/
def correctSign (c : Curve) (s : State) : State :=
  { s with x := c.ecCondNeg s.clsb s.x }.call .ecCondNeg [.point .x]

/-- `R <- ext.ec_affine(X)` (R191). -/
def writeResult (c : Curve) (s : State) : State :=
  { s with r := c.ecAffine s.x }.call .ecAffine [.point .x]

/-- What a micro-operation does, apart from the advance of `SEQ` and the completion writes. It is a
total function of bits (60_exceptions.md R240). -/
def runMicro (cfg : Cfg) (m : MicroOp) (s : State) : State :=
  match m with
  | .mask => { s with ka := maskScalar s.ka }
  | .decomp k pair => decomp cfg.curve k pair s
  | .prep a pair => prep cfg.curve a pair s
  | .recode2 len => recode2 len s
  | .recode4 len => recode4 len s
  | .combrec72 => combrec72 cfg s
  | .combrec81 => combrec81 cfg s
  | .gentab2 => gentab2 cfg.curve s
  | .gentab4 => gentab4 cfg.curve s
  | .sel2 index ct dest => sel2 cfg index ct dest s
  | .sel4 index dest => sel4 cfg index dest s
  | .selcomb72 ep => selcomb72 cfg ep s
  | .selcomb81 ep => selcomb81 cfg ep s
  | .dbl => doubleX cfg.curve s
  | .add u v => addToX cfg.curve u v s
  | .correctGlv => correctGlv cfg.curve s
  | .correctFix => correctFix cfg s
  | .correctSign => correctSign cfg.curve s
  | .affine => writeResult cfg.curve s

end Sys2Proof.Machine
end

