-- ==== Sys2Proof/Machine/Sequencer.lean ====
section
/-! DEFINITION. The shape of a command's list of micro-operations and the sequencer that walks it
(spec 10_state.md R40 to R42; 45_drivers.md R170, R171, R174). -/

namespace Sys2Proof.Machine

/-- A ladder: the loop of the `ITERATE` phase, counting `II` down from `first` by `stride` to
`last` (10_state.md R42). -/
structure Ladder where
  first : BitVec 8
  stride : BitVec 8
  last : BitVec 8
  /-- The micro-operations of the iteration with a given `II`. -/
  body : BitVec 8 → List MicroOp

/-- A command's list, phase by phase. An empty phase is passed through without a core step
(45_drivers.md R171). -/
structure Plan where
  setup : List MicroOp
  tableBuild : List MicroOp := []
  seed : List MicroOp := []
  ladder : Option Ladder := none
  correct : List MicroOp := []
  cofactor : List MicroOp := []
  affine : List MicroOp := []

/-- The micro-operations of a phase; for `ITERATE`, of the iteration with this `II`. -/
def Plan.ops (p : Plan) (ii : BitVec 8) : Phase → List MicroOp
  | .setup => p.setup
  | .tableBuild => p.tableBuild
  | .seed => p.seed
  | .iterate =>
    match p.ladder with
    | some l => l.body ii
    | none => []
  | .correct => p.correct
  | .cofactor => p.cofactor
  | .affine => p.affine
  | .idle => []
  | .done => []

/-- `II` at the start of a phase: the ladder's first index for `ITERATE`, else unchanged (R42;
log 12). -/
def Plan.entryIndex (p : Plan) (ii : BitVec 8) : Phase → BitVec 8
  | .iterate =>
    match p.ladder with
    | some l => l.first
    | none => ii
  | .setup => ii
  | .tableBuild => ii
  | .seed => ii
  | .correct => ii
  | .cofactor => ii
  | .affine => ii
  | .idle => ii
  | .done => ii

/-- The phases after a phase, in the one order of 45_drivers.md R171. -/
def laterPhases : Phase → List Phase
  | .idle => [.setup, .tableBuild, .seed, .iterate, .correct, .cofactor, .affine]
  | .setup => [.tableBuild, .seed, .iterate, .correct, .cofactor, .affine]
  | .tableBuild => [.seed, .iterate, .correct, .cofactor, .affine]
  | .seed => [.iterate, .correct, .cofactor, .affine]
  | .iterate => [.correct, .cofactor, .affine]
  | .correct => [.cofactor, .affine]
  | .cofactor => [.affine]
  | .affine => []
  | .done => []

/-- The start of the first phase of a list whose own list is not empty, if any (R171). -/
def Plan.enterFirst (p : Plan) (ii : BitVec 8) : List Phase → Option Seq
  | [] => none
  | ph :: rest =>
    let ii' := p.entryIndex ii ph
    if (p.ops ii' ph).isEmpty then p.enterFirst ii rest
    else some { phase := ph, ii := ii', sub := 0 }

/-- The micro-operation a position names (45_drivers.md R170). -/
def Plan.microAt (p : Plan) (q : Seq) : Option MicroOp := (p.ops q.ii q.phase)[q.sub.toNat]?

/-- The next `II` of a ladder, or none after its last index (10_state.md R42). -/
def Plan.nextIndex (p : Plan) (q : Seq) : Option (BitVec 8) :=
  match q.phase, p.ladder with
  | .iterate, some l => if q.ii = l.last then none else some (q.ii - l.stride)
  | _, _ => none

/-- The position after `q`, or none when `q` names the last micro-operation (R42). It reads the
plan and the position alone (45_drivers.md R174). -/
def Plan.next (p : Plan) (q : Seq) : Option Seq :=
  if q.sub.toNat + 1 < (p.ops q.ii q.phase).length then some { q with sub := q.sub + 1 }
  else
    match p.nextIndex q with
    | some ii => some { phase := q.phase, ii := ii, sub := 0 }
    | none => p.enterFirst q.ii (laterPhases q.phase)

/-- The loop indices of a ladder, first to last. -/
def Ladder.indices (l : Ladder) : List (BitVec 8) :=
  (List.range ((l.first - l.last).toNat / l.stride.toNat + 1)).map fun j =>
    l.first - l.stride * BitVec.ofNat 8 j

/-- The micro-operations of a ladder in order. -/
def Ladder.program (l : Ladder) : List MicroOp := l.indices.flatMap l.body

/-- A command's whole list of micro-operations in order (45_drivers.md R170). -/
def Plan.program (p : Plan) : List MicroOp :=
  p.setup ++ p.tableBuild ++ p.seed ++ (p.ladder.map Ladder.program).getD [] ++ p.correct ++
    p.cofactor ++ p.affine

/-- The `II` a command is left with: the last index of its ladder (R42; log 12). -/
def Plan.finalIndex (p : Plan) : BitVec 8 := (p.ladder.map Ladder.last).getD 0

/-- Run a list of micro-operations in order, each completely before the next (R170). -/
def runMicros (cfg : Cfg) (ms : List MicroOp) (s : State) : State :=
  ms.foldl (fun s m => runMicro cfg m s) s

end Sys2Proof.Machine
end

