-- ==== Sys2Proof/Machine/Control.lean ====
section
/-! DEFINITION. How a command starts, ends and runs (spec 45_drivers.md R172, R173, R175;
60_exceptions.md R243). -/

namespace Sys2Proof.Machine

/-- Command acceptance (R172): latch the command, set `BUSY`, clear `DONE`, enter `SETUP`, and for a
driver clear `R`. The model's trace starts anew (log 5). No other register changes. -/
def accept (i : Instr) (s : State) : State :=
  { s with
    opl := i.opcode, mcl := i.cofactor
    busy := true, done := false
    seq := { phase := .setup, ii := 0, sub := 0 }
    r := if i.isDriver then .zero else s.r
    trace := [] }

/-- Completion (R173): `BUSY <- 0`, `DONE <- 1`, `PHASE <- DONE`; `SUB` returns to 0 and `II` stays
(10_state.md R42; log 12). -/
def complete (s : State) : State :=
  { s with
    busy := false, done := true
    seq := { phase := .done, ii := s.seq.ii, sub := 0 } }

/-- The whole command as one transition, from acceptance to completion, with no host access in
between (45_drivers.md R175): the micro-operations of its list in order. -/
def runPlan (cfg : Cfg) (i : Instr) (p : Plan) (s : State) : State :=
  let t := runMicros cfg p.program (accept i s)
  complete { t with seq := { t.seq with ii := p.finalIndex } }

/-- `HostWrite(CMD, cw)` of a legal command word and the whole command it starts. While busy the
word is not decoded and sets `ERR_BUSY` (60_exceptions.md R243); otherwise the command runs to
completion (R172, R173). -/
def runCommand (cfg : Cfg) (i : Instr) (p : Plan) (s : State) :
    Host.Outcome State Fault Refusal :=
  if s.busy then .next (raiseErrBusy s) else .next (runPlan cfg i p s)

end Sys2Proof.Machine
end

