-- ==== Sys2Proof/Machine/Drivers.lean ====
section
/-! DEFINITION. The four drivers (spec 45_drivers.md R180, R182, R184, R186): the list of each, in
the spec's own table form, and its meaning. -/

namespace Sys2Proof.Machine

/-- The two cofactor doublings (R190). -/
def cofactorOps : List MicroOp := [.dbl, .dbl]

/-- One iteration of the m=2 ladder: double twice, fetch, add (R180; phase A of R186). -/
def window2Ops (ct : Bool) (ii : BitVec 8) : List MicroOp :=
  [.dbl, .dbl, .sel2 ii.toNat ct .tt, .add .x .tt]

/-- The list of `MUL` (R180). -/
def mulPlan : Plan :=
  { setup := [.decomp .ka .lo, .prep .p .lo, .recode2 128]
    tableBuild := [.gentab2]
    seed := [.sel2 126 true .x]
    ladder := some { first := 124, stride := 2, last := 0, body := window2Ops true }
    correct := [.correctGlv]
    cofactor := cofactorOps
    affine := [.affine] }

/-- The list of `MUL_GEN` (R182). The cofactor phase is there only when `MCL = 1` (R190). -/
def mulGenPlan (mc : Bool) : Plan :=
  { setup := [.combrec72]
    seed := [.selcomb72 17, .add .ts .tt]
    ladder := some
      { first := 16, stride := 1, last := 0
        body := fun ii => [.dbl, .selcomb72 ii.toNat, .add .x .ts, .add .x .tt] }
    correct := [.correctFix, .correctSign]
    cofactor := if mc then cofactorOps else []
    affine := [.affine] }

/-- The list of `SIMUL` (R184). -/
def simulPlan : Plan :=
  { setup := [.decomp .ka .lo, .decomp .kb .hi, .prep .p .lo, .prep .q .hi, .recode4 127]
    tableBuild := [.gentab4]
    seed := [.sel4 126 .x]
    ladder := some
      { first := 125, stride := 1, last := 0
        body := fun ii => [.dbl, .sel4 ii.toNat .tt, .add .x .tt] }
    correct := [.correctGlv]
    cofactor := cofactorOps
    affine := [.affine] }

/-- One iteration of phase B of `SIMUL_GEN` (R186): comb columns `ii + 1` and `ii`, then the m=2
window at `ii`. -/
def mixedOps (ii : BitVec 8) : List MicroOp :=
  [.dbl, .selcomb81 (ii.toNat + 1), .add .x .tt, .dbl, .selcomb81 ii.toNat, .add .x .tt,
    .sel2 ii.toNat false .tt, .add .x .tt]

/-- The list of `SIMUL_GEN` (R186): phase A for `II` from 124 to 32, phase B from 30 to 0, both in
`ITERATE`. -/
def simulGenPlan : Plan :=
  { setup := [.decomp .kb .lo, .prep .q .lo, .recode2 128, .combrec81]
    tableBuild := [.gentab2]
    seed := [.sel2 126 false .x]
    ladder := some
      { first := 124, stride := 2, last := 0
        body := fun ii => if 32 ≤ ii.toNat then window2Ops false ii else mixedOps ii }
    correct := [.correctGlv]
    cofactor := cofactorOps
    affine := [.affine] }

/-- `MUL` (R180): `R = 4·k·P` on the domain (R181). -/
def execMul (s : State) : Host.Outcome State Fault Refusal :=
  runCommand Config.cfg .mul mulPlan s

/-- `MUL_GEN` (R182): `R = k·G`, or `4·k·G` when `MC = 1`, on the domain (R183). -/
def execMulGen (mc : Bool) (s : State) : Host.Outcome State Fault Refusal :=
  runCommand Config.cfg (.mulGen mc) (mulGenPlan mc) s

/-- `SIMUL` (R184): `R = 4·(a·P + b·Q)` on the domain (R185). -/
def execSimul (s : State) : Host.Outcome State Fault Refusal :=
  runCommand Config.cfg .simul simulPlan s

/-- `SIMUL_GEN` (R186): `R = 4·(a·G + b·Q)` on the domain (R187). -/
def execSimulGen (s : State) : Host.Outcome State Fault Refusal :=
  runCommand Config.cfg .simulGen simulGenPlan s

end Sys2Proof.Machine
end

