-- ==== Sys2Proof/Machine/Masking.lean ====
section
/-! DEFINITION. The command `MASK_SCALAR` (spec 40_scalar_masking.md R100). -/

namespace Sys2Proof.Machine

/-- The list of `MASK_SCALAR`: one micro-operation, executed with `PHASE = SETUP` (R100). -/
def maskPlan : Plan := { setup := [.mask] }

/-- `MASK_SCALAR` (R100): `KA` loses its top five bits, in place; `R` keeps its value. -/
def execMaskScalar (s : State) : Host.Outcome State Fault Refusal :=
  runCommand Config.cfg .maskScalar maskPlan s

end Sys2Proof.Machine
end

