-- ==== Sys2Proof/Machine/Dispatch.lean ====
section
/-! DEFINITION. Which meaning each command has: one arm per constructor of `Instr`. -/

namespace Sys2Proof.Machine

def exec (i : Instr) (s : State) : Host.Outcome State Fault Refusal :=
  match i with
  | .maskScalar => Sys2Proof.Machine.execMaskScalar s
  | .mul => Sys2Proof.Machine.execMul s
  | .mulGen mc => Sys2Proof.Machine.execMulGen mc s
  | .simul => Sys2Proof.Machine.execSimul s
  | .simulGen => Sys2Proof.Machine.execSimulGen s

end Sys2Proof.Machine
end

