-- ==== Sys2Proof/Machine/CoreStep.lean ====
section
/-! DEFINITION. One core step at the finest granularity: one micro-operation of the command in
progress (spec 45_drivers.md R170, R173; 10_state.md R42). -/

namespace Sys2Proof.Machine

/-- The list of each command. -/
def planOf : Instr → Plan
  | .maskScalar => maskPlan
  | .mul => mulPlan
  | .mulGen mc => mulGenPlan mc
  | .simul => simulPlan
  | .simulGen => simulGenPlan

/-- The command `OPL` and `MCL` name (10_state.md R43), if they name one. -/
def latched (opl : BitVec 4) (mcl : Bool) : Option Instr :=
  match decodeWord (wordOfFields { op := opl, zeroLow := 0, mc := mcl, zeroHigh := 0 }) with
  | .ok i => some i
  | .error _ => none

/-- Execute one micro-operation and move `SEQ` to the next, or complete after the last (R170, R173,
10_state.md R42). -/
def microStep (cfg : Cfg) (p : Plan) (m : MicroOp) (s : State) : State :=
  let t := runMicro cfg m s
  match p.next s.seq with
  | some q => { t with seq := q }
  | none => complete t

/-- A core step (R170): when busy, the micro-operation `SEQ` names in the list of the latched
command; when not busy the core has no step and nothing changes. -/
def coreStep (cfg : Cfg) (s : State) : Host.Outcome State Fault Refusal :=
  if !s.busy then .next s
  else
    match latched s.opl s.mcl with
    | none => .fault .sequencerLost
    | some i =>
      match (planOf i).microAt s.seq with
      | none => .fault .sequencerLost
      | some m => .next (microStep cfg (planOf i) m s)

/-- The number of core steps of a command (95_test_vectors.md 2.11). -/
def coreSteps (i : Instr) : Nat := (planOf i).program.length

end Sys2Proof.Machine
end

