-- ==== Sys2Proof/Machine/Port.lean ====
section
/-! DEFINITION. The host port: the register map, host reads and host writes (spec 20_memory.md R60 to
R67, R69; 10_state.md R44 to R46; 60_exceptions.md R241 to R245). -/

namespace Sys2Proof.Machine

/-- The six operand registers of the map, in address order (R63). -/
inductive OperandReg where
  | ka | kb | px | py | qx | qy
deriving DecidableEq, Repr

/-- What a word address names (20_memory.md R63, R69). -/
inductive Region where
  | cmd
  | status
  | operand (r : OperandReg) (j : Nat)
  | resultX (j : Nat)
  | resultY (j : Nat)
  /-- Word `w` of slot `i` of an affine ROM. -/
  | rom (m : AffineRom) (i : Nat) (w : Nat)
  /-- Word `w` of `GFIX`. -/
  | romFix (w : Nat)
  | reserved
deriving DecidableEq, Repr

/-- The operand register of an operand word, counted from `0x008` in fours (R63). -/
def operandOf (n : Nat) : OperandReg :=
  if n = 0 then .ka else if n = 1 then .kb else if n = 2 then .px
  else if n = 3 then .py else if n = 4 then .qx else .qy

/-- The register map (R63), with the slot layout of the ROM windows (R69). -/
def regionOf (wa : WordAddr) : Region :=
  let a := wa.toNat
  if a = 0x000 then .cmd
  else if a = 0x001 then .status
  else if a < 0x008 then .reserved
  else if a < 0x020 then .operand (operandOf ((a - 0x008) / 4)) ((a - 0x008) % 4)
  else if a < 0x024 then .resultX (a - 0x020)
  else if a < 0x028 then .resultY (a - 0x024)
  else if a < 0x200 then .reserved
  else if a < 0x400 then .rom .gt0 ((a - 0x200) / 8) ((a - 0x200) % 8)
  else if a < 0x600 then .rom .gt1 ((a - 0x400) / 8) ((a - 0x400) % 8)
  else if a < 0x610 then .romFix (a - 0x600)
  else if a < 0x800 then .reserved
  else if a < 0xC00 then .rom .sgt ((a - 0x800) / 8) ((a - 0x800) % 8)
  else .reserved

/-- Word `w` of an affine entry: `x.limb[0..3]`, then `y.limb[0..3]` (R69). -/
def affineWord (e : Affine) (w : Nat) : Limb := if w < 4 then limb e.x w else limb e.y (w - 4)

/-- Word `w` of an extended entry, in the order `x, y, t, z` (R69). -/
def ecptWord (e : Ecpt) (w : Nat) : Limb :=
  if w < 4 then limb e.x w
  else if w < 8 then limb e.y (w - 4)
  else if w < 12 then limb e.t (w - 8)
  else limb e.z (w - 12)

/-- The value of an operand register. -/
def State.operandReg (s : State) : OperandReg → U256
  | .ka => s.ka
  | .kb => s.kb
  | .px => s.p.x
  | .py => s.p.y
  | .qx => s.q.x
  | .qy => s.q.y

/-- Write limb `j` of an operand register. -/
def State.setOperandLimb (s : State) (r : OperandReg) (j : Nat) (v : Limb) : State :=
  match r with
  | .ka => { s with ka := setLimb s.ka j v }
  | .kb => { s with kb := setLimb s.kb j v }
  | .px => { s with p := { s.p with x := setLimb s.p.x j v } }
  | .py => { s with p := { s.p with y := setLimb s.p.y j v } }
  | .qx => { s with q := { s.q with x := setLimb s.q.x j v } }
  | .qy => { s with q := { s.q with y := setLimb s.q.y j v } }

/-- The word `HostRead(wa)` returns (10_state.md R46): `CMD` and reserved words read 0, `R` reads 0
while busy (R25), reads change nothing (20_memory.md R67). -/
def hostRead (cfg : Cfg) (wa : WordAddr) (s : State) : Limb :=
  match regionOf wa with
  | .cmd => 0
  | .status => statusWord s
  | .operand r j => limb (s.operandReg r) j
  | .resultX j => if s.busy then 0 else limb s.r.x j
  | .resultY j => if s.busy then 0 else limb s.r.y j
  | .rom m i w => affineWord (romEntry cfg m i) w
  | .romFix w => ecptWord (gfix cfg) w
  | .reserved => 0

/-- The byte of the host register space at byte address `8·wa + n` (20_memory.md R61), as a read. -/
def readByte (cfg : Cfg) (ba : Nat) (s : State) : Byte :=
  byteOfWord (hostRead cfg (BitVec.ofNat 12 (ba / 8)) s) (ba % 8)

/-- `HostWrite(CMD, cw)`: accepted when not busy and legal (45_drivers.md R172), `ERR_BUSY` while
busy, not decoded (60_exceptions.md R243), `ERR_OP` when illegal (R242). -/
def writeCmd (cw : Limb) (s : State) : State :=
  if s.busy then raiseErrBusy s
  else
    match decodeWord cw with
    | .ok i => accept i s
    | .error _ => raiseErrOp s

/-- `HostWrite(wa, v)` (10_state.md R46; 60_exceptions.md R242 to R244). -/
def hostWrite (wa : WordAddr) (v : Limb) (s : State) : State :=
  match regionOf wa with
  | .cmd => writeCmd v s
  | .status => clearErrors v s
  | .operand r j => if s.busy then raiseErrBusy s else s.setOperandLimb r j v
  | .resultX _ => raiseErrAddr s
  | .resultY _ => raiseErrAddr s
  | .rom _ _ _ => raiseErrAddr s
  | .romFix _ => raiseErrAddr s
  | .reserved => raiseErrAddr s

/-- A host read as a turn: the host receives the word (log 4); the block does not change (R67). -/
def receive (cfg : Cfg) (wa : WordAddr) (s : State) : State :=
  { s with reads := s.reads ++ [hostRead cfg wa s] }

/-- The reset event (70_reset_and_hazards.md R260, R261, R263): every register takes its reset
value; what the host has still to do and has received is not the block's (log 14). -/
def resetEvent (s : State) : State := { State.reset with turns := s.turns, reads := s.reads }

end Sys2Proof.Machine
end

