-- ==== Sys2Proof/Machine/HostProgram.lean ====
section
/-! DEFINITION. The host notation and the pseudo-instructions (spec 30_encoding.md R93, R94): each is
a list of turns. -/

namespace Sys2Proof.Machine

/-- The word address of limb 0 of a 256-bit operand register (20_memory.md R63). -/
def operandBase : OperandReg → WordAddr
  | .ka => 0x008
  | .kb => 0x00C
  | .px => 0x010
  | .py => 0x014
  | .qx => 0x018
  | .qy => 0x01C

/-- `WR256 REG, v`: four writes, limb 0 first (R93). -/
def wr256 (r : OperandReg) (v : U256) : List Turn :=
  (List.range 4).map fun j => .write (operandBase r + BitVec.ofNat 12 j) (limb v j)

/-- `RD256` from a base word address: four reads, limb 0 first (R93). -/
def rd256 (base : WordAddr) : List Turn :=
  (List.range 4).map fun j => .read (base + BitVec.ofNat 12 j)

/-- `POLL` (R93): reads of `STATUS`, with the given number of core steps before each. How many reads
there are is not specified (70_reset_and_hazards.md R277), so it is a parameter. -/
def poll (gaps : List Nat) : List Turn :=
  gaps.flatMap fun n => List.replicate n .core ++ [.read 0x001]

/-- `RD256 RX ; RD256 RY` (R94). -/
def rdResult : List Turn := rd256 0x020 ++ rd256 0x024

/-- `ec_mask_scalar(buf)` (R94). -/
def hostMaskScalar (buf : U256) (gaps : List Nat) : List Turn :=
  wr256 .ka buf ++ [.write 0x000 (encode .maskScalar)] ++ poll gaps ++ rd256 0x008

/-- `ec_mul(k, P) -> R` (R94). -/
def hostMul (k : U256) (p : Affine) (gaps : List Nat) : List Turn :=
  wr256 .ka k ++ wr256 .px p.x ++ wr256 .py p.y ++ [.write 0x000 (encode .mul)] ++ poll gaps ++
    rdResult

/-- `ec_mul_gen(k, mul_cofactor) -> R` (R94). -/
def hostMulGen (k : U256) (mc : Bool) (gaps : List Nat) : List Turn :=
  wr256 .ka k ++ [.write 0x000 (encode (.mulGen mc))] ++ poll gaps ++ rdResult

/-- `ec_simul(a, P, b, Q) -> R` (R94). -/
def hostSimul (a : U256) (p : Affine) (b : U256) (q : Affine) (gaps : List Nat) : List Turn :=
  wr256 .ka a ++ wr256 .px p.x ++ wr256 .py p.y ++ wr256 .kb b ++ wr256 .qx q.x ++ wr256 .qy q.y ++
    [.write 0x000 (encode .simul)] ++ poll gaps ++ rdResult

/-- `ec_simul_gen(a, b, Q) -> R` (R94). -/
def hostSimulGen (a b : U256) (q : Affine) (gaps : List Nat) : List Turn :=
  wr256 .ka a ++ wr256 .kb b ++ wr256 .qx q.x ++ wr256 .qy q.y ++
    [.write 0x000 (encode .simulGen)] ++ poll gaps ++ rdResult

end Sys2Proof.Machine
end

