-- ==== Sys2Proof/Machine/Fetch.lean ====
section
/-! DEFINITION. What each turn does, and where a command word is fetched from (log 3). -/

namespace Sys2Proof.Machine

/-- A whole command from its word (45_drivers.md R175): a legal word runs as `exec` of its command; an
illegal one is the refused write of `CMD` (60_exceptions.md R242, R243). -/
def commandTurn (cw : Limb) (s : State) : Host.Outcome State Fault Refusal :=
  match decode (bytesOfWord cw) with
  | .ok (i, _) => exec i s
  | .error _ => .next (writeCmd cw s)

/-- What a turn does to the state. -/
def takeTurn (cfg : Cfg) (t : Turn) (s : State) : Host.Outcome State Fault Refusal :=
  match t with
  | .write wa v => .next (hostWrite wa v s)
  | .read wa => .next (receive cfg wa s)
  | .core => coreStep cfg s
  | .command cw => commandTurn cw s
  | .reset => .next (resetEvent s)

/-- One transition of the block with its boundary: the first turn, or, when the boundary asks
nothing, a core step (70_reset_and_hazards.md R277: a busy core is eventually stepped; 45_drivers.md
R176: a core that is not busy waits). -/
def transition (cfg : Cfg) (s : State) : Host.Outcome State Fault Refusal :=
  match s.turns with
  | [] => coreStep cfg s
  | t :: rest => takeTurn cfg t { s with turns := rest }

/-- The same command word as the boundary's next turn. -/
def pushCommandWord (s : State) (nbits w : Nat) : State :=
  { s with turns := .command (tableWord nbits w) :: s.turns }

end Sys2Proof.Machine
end

