-- ==== Sys2Proof/Machine/Step.lean ====
section
/-! DEFINITION. The step of the machine. -/

namespace Sys2Proof.Machine

/-- One step: the transition of the block under its configuration. -/
def step (s : State) : Host.Outcome State Fault Refusal := transition Config.cfg s

/-- `s` with a command word (its bits above `nbits` zero) where the next step takes it from: the head
of the list of turns (log 3). -/
def State.withFetchWord (s : State) (nbits w : Nat) : State := pushCommandWord s nbits w

end Sys2Proof.Machine
end

