-- ==== Sys2Proof/Safety.lean ====
section
/-! DEFINITION. The terms claims are stated in: the invariant of a run, the digit readings, the
operands and the guaranteed domain of a command, and the laws of the external collaborators
(spec 00_scope.md R9, R13; 46_external_collaborators.md). No definition of the machine uses this
file. -/

namespace Sys2Proof

open Sys2Proof.Machine

/-! ### The sequencer's positions and the invariant of a run -/

/-- The positions of a list of micro-operations in one phase at one `II`. -/
def phasePositions (ph : Phase) (ii : BitVec 8) (ms : List MicroOp) : List Seq :=
  (List.range ms.length).map fun j => { phase := ph, ii := ii, sub := BitVec.ofNat 8 j }

/-- Every position of a command's list, in order (10_state.md R42, 45_drivers.md R170). -/
def Machine.Plan.positions (p : Plan) : List Seq :=
  phasePositions .setup 0 p.setup ++ phasePositions .tableBuild 0 p.tableBuild ++
    phasePositions .seed 0 p.seed ++
    (p.ladder.map fun l => l.indices.flatMap fun ii => phasePositions .iterate ii (l.body ii)).getD [] ++
    phasePositions .correct p.finalIndex p.correct ++
    phasePositions .cofactor p.finalIndex p.cofactor ++ phasePositions .affine p.finalIndex p.affine

/-- While a command is in progress: `OPL`, `MCL` name a command, `SEQ` one of its positions, and the
result register of a driver is 0 (45_drivers.md R170, R172). -/
def inProgressOk (s : State) : Bool :=
  match latched s.opl s.mcl with
  | some i => (planOf i).positions.contains s.seq && (!i.isDriver || s.r == Affine.zero)
  | none => false

/-- The invariant of a run: `BUSY` and `DONE` are never both 1 (10_state.md R45), `PHASE` is `DONE`
exactly when `DONE = 1`, a busy core is at a position of its command, and an idle one is in `IDLE` or
`DONE` (45_drivers.md R173, R176). -/
def runInv (s : State) : Bool :=
  !(s.busy && s.done) && (s.done == (s.seq.phase == .done)) &&
    (if s.busy then inProgressOk s else s.seq.phase == .idle || s.seq.phase == .done)

/-! ### Digit readings (00_scope.md R13) -/

/-- `dig(s, i)`: +1 if bit `i` is set, −1 if not. -/
def dig {w : Nat} (s : BitVec w) (i : Nat) : Int := if s.getLsbD i then 1 else -1

/-- A bit as 0 or 1. -/
def bitInt {w : Nat} (s : BitVec w) (i : Nat) : Int := if s.getLsbD i then 1 else 0

/-- The value of a sign word of length `n`. -/
def signValue {w : Nat} (n : Nat) (s : BitVec w) : Int :=
  ∑ i ∈ Finset.range n, dig s i * 2 ^ i

/-- The value of a companion word `c` under the sign word `s`, length `n`. -/
def companionValue {w : Nat} (n : Nat) (s c : BitVec w) : Int :=
  ∑ i ∈ Finset.range n, bitInt c i * dig s i * 2 ^ i

/-- The value of a comb buffer with `d` columns and `l` digit bits, and the rest above bit `l`
(44_comb_recoders.md R154). -/
def combValue (d l : Nat) (b : U256) : Int :=
  (∑ c ∈ Finset.range d, dig b c * 2 ^ c) +
    (∑ i ∈ Finset.Ico d l, bitInt b i * dig b (i % d) * 2 ^ i) + ((b >>> l).toNat : Int) * 2 ^ l

/-- `W(i)`, what two columns of an m=2 window contribute (42_table_generators.md R124,
43_table_selectors.md R134). -/
def window2Value {E : Type} [AddCommGroup E] (a b : U128) (i : Nat) (A B : E) : E :=
  (2 * dig a (i + 1) + dig a i) • A +
    (2 * bitInt b (i + 1) * dig a (i + 1) + bitInt b i * dig a i) • B

/-- What one column of an m=4 window contributes (43_table_selectors.md R136). -/
def window4Value {E : Type} [AddCommGroup E] (a b c d : U128) (i : Nat) (A B C D : E) : E :=
  dig a i • (A + bitInt b i • B + bitInt c i • C + bitInt d i • D)

/-- What slot `k` of the m=2 table holds: `3A + (2·k1 + k0)·B` if `k2 = 0`, `A + (2·k1 − k0)·B` if
`k2 = 1` (42_table_generators.md R120). -/
def slot2Value {E : Type} [AddCommGroup E] (k : Nat) (A B : E) : E :=
  if k / 4 % 2 = 0 then (3 : Int) • A + (2 * (k / 2 % 2 : Nat) + (k % 2 : Nat) : Int) • B
  else A + (2 * (k / 2 % 2 : Nat) - (k % 2 : Nat) : Int) • B

/-- What slot `k` of the m=4 table holds: `A + k[0]·B + k[1]·C + k[2]·D` (R122). -/
def slot4Value {E : Type} [AddCommGroup E] (k : Nat) (A B C D : E) : E :=
  A + (k % 2) • B + (k / 2 % 2) • C + (k / 4 % 2) • D

/-! ### Operands -/

/-- Two states hold the same operands of a command (30_encoding.md R83). -/
def sameOperands (i : Instr) (s t : State) : Prop :=
  match i with
  | .maskScalar => s.ka = t.ka
  | .mul => s.ka = t.ka ∧ s.p = t.p
  | .mulGen _ => s.ka = t.ka
  | .simul => s.ka = t.ka ∧ s.p = t.p ∧ s.kb = t.kb ∧ s.q = t.q
  | .simulGen => s.ka = t.ka ∧ s.kb = t.kb ∧ s.q = t.q

/-- A scalar operand of the guaranteed domain: `0 < k < q` (R9). -/
def scalarInDomain (cfg : Cfg) (k : U256) : Prop := 0 < k.toNat ∧ k.toNat < cfg.qOrder

/-- One event, from the last to the first, of a trace without its selector reads: a selector's reads
stand directly before a call that is given the fetched entry. -/
def keepEvent (e : Event) (acc : List Event × Bool) : List Event × Bool :=
  match e with
  | .rd m i => if acc.2 then acc else (.rd m i :: acc.1, false)
  | .wr i => (.wr i :: acc.1, false)
  | .op f args => (.op f args :: acc.1, args.head? == some .entry)

/-- A trace without the reads of the selectors; the table generators' reads stay
(70_reset_and_hazards.md R272). -/
def withoutSelectorReads (es : List Event) : List Event := (es.foldr keepEvent ([], false)).1

/-- A state is one the core has finished a command in: not busy, `DONE`, `PHASE = DONE` (45_drivers.md
R173, R176), with `II` and `SUB` at 0 (log 12). -/
def finished (s : State) : Prop :=
  s.busy = false ∧ s.done = true ∧ s.seq = { phase := .done, ii := 0, sub := 0 }

/-- Operand registers, error flags and the boundary are as before: what no driver writes (10_state.md
R46). -/
def sameHostSide (s t : State) : Prop :=
  t.ka = s.ka ∧ t.kb = s.kb ∧ t.p = s.p ∧ t.q = s.q ∧ t.errOp = s.errOp ∧ t.errBusy = s.errBusy ∧
    t.errAddr = s.errAddr ∧ t.turns = s.turns ∧ t.reads = s.reads

/-- The command runs, with nothing asked after its acceptance, for exactly `n` core steps: busy before
the last, and in `t`, not busy, after it (45_drivers.md R170, R173). -/
def completesAfter (i : Instr) (n : Nat) (s t : State) : Prop :=
  Host.Core.run Sys2Proof.core n { accept i s with turns := [] } = .next t ∧ t.busy = false ∧
    ∀ m, m < n → ∃ u : State,
      Host.Core.run Sys2Proof.core m { accept i s with turns := [] } = .next u ∧ u.busy = true

/-! ### The parameters (00_scope.md R6) -/

/-- The constraints on the named parameters: `q` is an odd prime with `2^251 < q < 2^252`, and a latency
is positive (R6, 70_reset_and_hazards.md R275). -/
structure ParametersOk (cfg : Cfg) : Prop where
  order_prime : cfg.qOrder.Prime
  order_odd : cfg.qOrder % 2 = 1
  order_low : 2 ^ 251 < cfg.qOrder
  order_high : cfg.qOrder < 2 ^ 252
  latency_pos : ∀ i, 0 < cfg.lat i

/-! ### The laws of the external collaborators (46_external_collaborators.md) -/

/-- The curve equation `−x² + y² = 1 + d·x²·y²` (00_scope.md R6 and section 6, R210). -/
def onCurve {F : Type} [Field F] (d u v : F) : Prop :=
  -(u ^ 2) + v ^ 2 = 1 + d * u ^ 2 * v ^ 2

/-- How 256 bits hold a field element (R211). -/
structure FieldCode (F : Type) [Field F] where
  /-- `fe_dec`, total. -/
  dec : U256 → F
  /-- `fe_enc`, the canonical encoding. -/
  enc : F → U256
  dec_enc : ∀ v, dec (enc v) = v
  /-- The all-zero bits are 0, so the all-zero tuple has `z = 0` (R220). -/
  dec_zero : dec 0 = 0

/-- `V` represents the affine point with coordinates `u`, `v`: `z ≠ 0`, `(x/z, y/z) = (u, v)`, the point
is on the curve, and `x·y = t·z` (R220). -/
def FieldCode.represents {F : Type} [Field F] (K : FieldCode F) (cfg : Cfg) (V : Ecpt) (u v : F) :
    Prop :=
  K.dec V.z ≠ 0 ∧ K.dec V.x / K.dec V.z = u ∧ K.dec V.y / K.dec V.z = v ∧
    onCurve (K.dec cfg.dCurve) u v ∧ K.dec V.x * K.dec V.y = K.dec V.t * K.dec V.z

/-- The field-level contract: `fe_mul` and `fe_set_smallk(1)` (R219), `ec_expand` (R216) and `ec_affine`
(R215). -/
structure FieldLaws (cfg : Cfg) (F : Type) [Field F] extends FieldCode F where
  feMul : ∀ a b, dec (cfg.curve.feMul a b) = dec a * dec b
  feOne : dec (cfg.curve.feSetSmallk 1) = 1
  /-- `ec_expand(x, y) = (x, y, x·y, 1)` for every pair, which is `AffineToExt` (R216). -/
  ecExpand_fields : ∀ x y,
    cfg.curve.ecExpand x y = ⟨x, y, cfg.curve.feMul x y, cfg.curve.feSetSmallk 1⟩
  /-- `ec_affine` of a valid representation is the canonical encoding of its coordinates (R215). -/
  ecAffine : ∀ V u v, toFieldCode.represents cfg V u v → cfg.curve.ecAffine V = ⟨enc u, enc v⟩

/-- The elements of the group `E` are the points of the curve, named by their affine coordinates (00_scope.md
R14, R210, R220). -/
structure PointCode (cfg : Cfg) (F E : Type) [Field F] [AddCommGroup E] extends FieldLaws cfg F where
  /-- The affine coordinates of a group element. -/
  coords : E → F × F
  coords_injective : Function.Injective coords
  coords_range : ∀ u v, onCurve (dec cfg.dCurve) u v ↔ ∃ A, coords A = (u, v)

/-- `V` is a representation of `A`, that is `pt(V) = A` (R220). -/
def PointCode.rep {cfg : Cfg} {F E : Type} [Field F] [AddCommGroup E] (L : PointCode cfg F E) (V : Ecpt)
    (A : E) : Prop :=
  L.represents cfg V (L.coords A).1 (L.coords A).2

/-- The affine pair represents `A` (R220). -/
def PointCode.repAffine {cfg : Cfg} {F E : Type} [Field F] [AddCommGroup E] (L : PointCode cfg F E)
    (e : Affine) (A : E) : Prop :=
  L.dec e.x = (L.coords A).1 ∧ L.dec e.y = (L.coords A).2

/-- The canonical affine encoding of `A`: `fe_enc` of its coordinates (R215). -/
def PointCode.encode {cfg : Cfg} {F E : Type} [Field F] [AddCommGroup E] (L : PointCode cfg F E) (A : E) :
    Affine :=
  ⟨L.enc (L.coords A).1, L.enc (L.coords A).2⟩

/-- The contract of the collaborators (R210 to R225; R232: the value laws use nothing else), over a field
`F` and the group `E` of points, with the constraints of `ParametersOk`. -/
structure GroupLaws (cfg : Cfg) (F E : Type) [Field F] [AddCommGroup E] extends PointCode cfg F E where
  parameters : ParametersOk cfg
  /-- The generator `G`. -/
  g : E
  /-- The endomorphism `φ`, a homomorphism of all of `E` (R222). -/
  phi : E →+ E
  /-- `E` has order `4q` (R210). -/
  card : Nat.card E = 4 * cfg.qOrder
  /-- `G` has order `q` (R210). -/
  generator_order : addOrderOf g = cfg.qOrder
  generator_affine : toPointCode.repAffine cfg.gAffine g
  /-- The complete addition law (R212). -/
  ecAdd : ∀ U V A B, toPointCode.rep U A → toPointCode.rep V B →
    toPointCode.rep (cfg.curve.ecAdd U V) (A + B)
  ecDbl : ∀ U A, toPointCode.rep U A → toPointCode.rep (cfg.curve.ecDbl U) (A + A)
  ecNeg : ∀ U A, toPointCode.rep U A → toPointCode.rep (cfg.curve.ecNeg U) (-A)
  ecCondNeg : ∀ c U A, toPointCode.rep U A →
    toPointCode.rep (cfg.curve.ecCondNeg c U) (if c then -A else A)
  ecCondAdd : ∀ c U V A B, toPointCode.rep U A → toPointCode.rep V B →
    toPointCode.rep (cfg.curve.ecCondAdd c U V) (if c then A + B else A)
  /-- The one call with a ROM operand, whose `t` words are `GEN_FIX_T` (R218). -/
  ecCondAdd_fix : ∀ c U A, toPointCode.rep U A →
    toPointCode.rep (cfg.curve.ecCondAdd c U (gfix cfg)) (if c then A + 2 ^ 252 • g else A)
  /-- `ID_AFFINE` (R215). -/
  encode_identity : toPointCode.encode 0 = cfg.idAffine
  glsMorph : ∀ V A, toPointCode.repAffine V A →
    toPointCode.repAffine (cfg.curve.glsMorph V.x V.y) (phi A)
  /-- `φ` is `λ` on the subgroup of order `q` (R222). -/
  phi_lambda : ∀ A, cfg.qOrder • A = 0 → phi A = cfg.lambda • A
  /-- `(−1)^sa·a + λ·(−1)^sb·b ≡ k (mod q)` (R223). -/
  decompose : ∀ k, scalarInDomain cfg k →
    (if (cfg.curve.glsDecompose k).sa then -((cfg.curve.glsDecompose k).a.toNat : Int)
      else ((cfg.curve.glsDecompose k).a.toNat : Int)) +
      cfg.lambda * (if (cfg.curve.glsDecompose k).sb then -((cfg.curve.glsDecompose k).b.toNat : Int)
      else ((cfg.curve.glsDecompose k).b.toNat : Int)) ≡ (k.toNat : Int) [ZMOD cfg.qOrder]
  /-- `1 <= a <= 2^126` and `b <= 2^126` (R224). -/
  decompose_bounds : ∀ k, scalarInDomain cfg k →
    1 ≤ (cfg.curve.glsDecompose k).a.toNat ∧ (cfg.curve.glsDecompose k).a.toNat ≤ 2 ^ 126 ∧
      (cfg.curve.glsDecompose k).b.toNat ≤ 2 ^ 126
  /-- `neg_mod_q(k) = q − k` (R225). -/
  negModQ : ∀ k, scalarInDomain cfg k → (cfg.curve.negModQ k).toNat = cfg.qOrder - k.toNat

/-- A point operand of the guaranteed domain: the affine pair of a point of the curve that is not the
identity (00_scope.md R9; 90_conflicts.md C15, 93_implementation_defined.md U1). -/
def PointCode.pointInDomain {cfg : Cfg} {F E : Type} [Field F] [AddCommGroup E] (L : PointCode cfg F E)
    (e : Affine) (A : E) : Prop :=
  L.repAffine e A ∧ A ≠ 0

/-! ### The source's universal invariants (45_drivers.md R194)

Invariant 9 has both its inputs outside the domain (`a = 0`, the identity), where the rules make no claim
(90_conflicts.md C10, C15): it is a remark of the spec and no law. -/

/-- A command ends with `DONE` and the canonical encoding of `A` in `R`. -/
def PointCode.leaves {cfg : Cfg} {F E : Type} [Field F] [AddCommGroup E] (L : PointCode cfg F E)
    (o : Host.Outcome State Fault Refusal) (A : E) : Prop :=
  ∃ t, o = .next t ∧ t.done = true ∧ t.r = L.encode A

section Invariants

variable {cfg : Cfg} {F E : Type} [Field F] [AddCommGroup E]

/-- Invariant 1: `MUL` leaves `k·4·P` (R181). -/
def PointCode.mulIsMultiple (L : PointCode cfg F E) (s : State) (A : E) : Prop :=
  L.leaves (runCommand cfg .mul mulPlan s) (4 • (s.ka.toNat • A))

/-- Invariant 2: `MUL_GEN` with the cofactor leaves what `MUL` leaves for `P = G`, and four times what it
leaves without (R183). -/
def PointCode.mulGenIsMulOfG (L : PointCode cfg F E) (s : State) : Prop :=
  ∃ B, L.leaves (runCommand cfg (.mulGen false) (mulGenPlan false) s) B ∧
    L.leaves (runCommand cfg (.mulGen true) (mulGenPlan true) s) (4 • B) ∧
    L.leaves (runCommand cfg .mul mulPlan { s with p := cfg.gAffine }) (4 • B)

/-- Invariant 3: `SIMUL(a, P, b, Q)` leaves the sum of what `MUL(a, P)` and `MUL(b, Q)` leave (R185). -/
def PointCode.simulIsSumOfMuls (L : PointCode cfg F E) (s : State) : Prop :=
  ∃ A B, L.leaves (runCommand cfg .mul mulPlan s) A ∧
    L.leaves (runCommand cfg .mul mulPlan { s with ka := s.kb, p := s.q }) B ∧
    L.leaves (runCommand cfg .simul simulPlan s) (A + B)

/-- Invariant 4: `SIMUL_GEN(a, b, Q)` leaves the sum of what `MUL_GEN(a)` with the cofactor and `MUL(b, Q)`
leave (R187). -/
def PointCode.simulGenIsSum (L : PointCode cfg F E) (s : State) : Prop :=
  ∃ A B, L.leaves (runCommand cfg (.mulGen true) (mulGenPlan true) s) A ∧
    L.leaves (runCommand cfg .mul mulPlan { s with ka := s.kb, p := s.q }) B ∧
    L.leaves (runCommand cfg .simulGen simulGenPlan s) (A + B)

/-- Invariant 8: `q` times what `MUL` leaves is the identity (R181). -/
def PointCode.cofactorIsCleared (L : PointCode cfg F E) (s : State) : Prop :=
  ∃ B, L.leaves (runCommand cfg .mul mulPlan s) B ∧ cfg.qOrder • B = 0

end Invariants

/-- Invariant 5: a command's trace is `tr` and its number of core steps is `n` whatever the operands are, as
one transition and by core steps (70_reset_and_hazards.md R271). -/
def traceIsFixed (i : Instr) (tr : List Event) (n : Nat) : Prop :=
  ∀ s : State, s.busy = false → ∃ t u, exec i s = .next t ∧ t.trace = tr ∧ completesAfter i n s u ∧
    u.trace = tr

/-- Invariant 6: `MASK_SCALAR` clears exactly the top five bits of `KA`, and a second one changes nothing
there (40_scalar_masking.md R101). -/
def maskingIsIdempotent (s : State) : Prop :=
  ∃ t u, exec .maskScalar s = .next t ∧ exec .maskScalar t = .next u ∧ u.ka = t.ka ∧
    ∀ i, t.ka.getLsbD i = (decide (i < 251) && s.ka.getLsbD i)

/-- Invariant 7: the recoded digits of a sign word and its companion sum back to the subscalars, less `LSB`
(41_glv_sac_recoders.md R113). -/
def recodingRoundTrips (len : Nat) (s t : State) : Prop :=
  signValue len t.s0 = (s.s0.toNat : Int) - (if t.lsb then 1 else 0) ∧
    companionValue len t.s0 t.s1 = s.s1.toNat

end Sys2Proof
end

