-- ==== Sys2Proof/Certificates/Slice0/Obligations.lean ====
section
/-! DEFINITION. The statements for the provers, from the numbered rules of spec/. "log <n>" is
notes/assumptions/<n>.md. -/

open Sys2Proof Sys2Proof.Machine

/-! ### Encoding -/

/-- R82: the rows of the opcode map, by mask and match, and the six legal words. -/
def Obligations.LegalWordsAreTheTable : Prop :=
  ∀ w : Limb,
    (decodeWord w = .ok .maskScalar ↔ w &&& 0xFFFFFFFFFFFFFFFF#64 = 0x1#64) ∧
    (decodeWord w = .ok .mul ↔ w &&& 0xFFFFFFFFFFFFFFFF#64 = 0x2#64) ∧
    (∀ mc, decodeWord w = .ok (.mulGen mc) ↔
      w &&& 0xFFFFFFFFFFFFFEFF#64 = 0x3#64 ∧ w.getLsbD 8 = mc) ∧
    (decodeWord w = .ok .simul ↔ w &&& 0xFFFFFFFFFFFFFFFF#64 = 0x4#64) ∧
    (decodeWord w = .ok .simulGen ↔ w &&& 0xFFFFFFFFFFFFFFFF#64 = 0x5#64) ∧
    ((∃ i, decodeWord w = .ok i) ↔
      w = 0x1#64 ∨ w = 0x2#64 ∨ w = 0x3#64 ∨ w = 0x103#64 ∨ w = 0x4#64 ∨ w = 0x5#64)

/-- R86, R242: the words no row of the opcode map matches are exactly those with a reserved opcode, a
nonzero reserved bit, or `MC` without `MUL_GEN`; writing one while not busy sets `ERR_OP` and nothing
else. -/
def Obligations.IllegalWordsSetErrOp : Prop :=
  ∀ (w : Limb) (s : State),
    ((∀ i, decodeWord w ≠ .ok i) ↔
      w ∉ [0x1#64, 0x2#64, 0x3#64, 0x103#64, 0x4#64, 0x5#64]) ∧
    ((∀ i, decodeWord w ≠ .ok i) ↔
      (w.extractLsb' 0 4 = 0#4 ∨ 6 ≤ (w.extractLsb' 0 4).toNat ∨ w.extractLsb' 4 4 ≠ 0#4 ∨
        w.extractLsb' 9 55 ≠ 0#55 ∨ (w.getLsbD 8 = true ∧ w.extractLsb' 0 4 ≠ 3#4))) ∧
    (s.busy = false → (∀ i, decodeWord w ≠ .ok i) →
      hostWrite 0x000#12 w s = { s with errOp := true })

/-- Decode and encode agree on bytes, both ways: the decoder reads a command and a rest exactly from
that command's eight bytes followed by the rest (R61, R80, R82). -/
def Obligations.DecodeInvertsEncode : Prop :=
  ∀ (bs rest : List Byte) (i : Instr), decode bs = .ok (i, rest) ↔ bs = encodeBytes i ++ rest

/-- Words written out from the opcode map decode to their commands (R82). -/
def Obligations.TableWordsDecode : Prop :=
  decodeTableWord 64 0x1 = some .maskScalar ∧ decodeTableWord 64 0x2 = some .mul ∧
    decodeTableWord 64 0x3 = some (.mulGen false) ∧ decodeTableWord 64 0x103 = some (.mulGen true) ∧
    decodeTableWord 64 0x4 = some .simul ∧ decodeTableWord 64 0x5 = some .simulGen ∧
    decodeTableWord 64 0x0 = none ∧ decodeTableWord 64 0x6 = none ∧
    decodeTableWord 64 0x102 = none ∧ decodeTableWord 64 0x13 = none ∧
    decodeTableWord 64 0x100000001 = none

/-! ### The step -/

/-- A step whose first turn is a command word runs `exec` of the command the word decodes to, on the
state without that turn; an illegal word is the refused write of `CMD`. `withFetchWord` places the
word there. The turn is the model's (logs 1, 3). -/
def Obligations.StepRunsTheDecodedCommand : Prop :=
  (∀ (s : State) (w : Limb) (rest : List Turn) (i : Instr),
    s.turns = .command w :: rest → decodeWord w = .ok i → step s = exec i { s with turns := rest }) ∧
  (∀ (s : State) (w : Limb) (rest : List Turn) (r : Reject),
    s.turns = .command w :: rest → decodeWord w = .error r →
      step s = .next (hostWrite 0x000#12 w { s with turns := rest })) ∧
  (∀ (s : State) (i : Instr), step (s.withFetchWord 64 (encode i).toNat) = exec i s)

/-- A step that is asked nothing executes exactly the micro-operation `SEQ` names in the list of the
latched command and then advances or completes; when the core is not busy nothing changes (R170,
R176, 10_state.md R42). -/
def Obligations.CoreStepRunsOneMicroOperation : Prop :=
  (∀ (s : State) (i : Instr) (m : MicroOp), s.turns = [] → s.busy = true →
    latched s.opl s.mcl = some i → (planOf i).microAt s.seq = some m →
    ∃ t, step s = .next t ∧
      (∀ q, (planOf i).next s.seq = some q → t = { runMicro Config.cfg m s with seq := q }) ∧
      ((planOf i).next s.seq = none → t = complete (runMicro Config.cfg m s))) ∧
  (∀ s : State, s.turns = [] → s.busy = false → step s = .next s)

/-- A command word written while a command is in progress changes nothing but `ERR_BUSY`, also as a
whole-command turn (R243; log 13). -/
def Obligations.CommandWhileBusyIsRefused : Prop :=
  ∀ (i : Instr) (s : State), s.busy = true → exec i s = .next { s with errBusy := true }

/-! ### The host port -/

/-- R172: what the acceptance of a legal command word changes, and that nothing else does; while busy,
or with an illegal word, nothing is accepted. The model's trace is left open. -/
def Obligations.AcceptanceLatchesTheCommand : Prop :=
  (∀ (s : State) (w : Limb) (i : Instr), s.busy = false → decodeWord w = .ok i →
    ∃ tr, hostWrite 0x000#12 w s =
      { s with
        opl := w.extractLsb' 0 4, mcl := w.getLsbD 8
        busy := true, done := false
        seq := { phase := .setup, ii := 0, sub := 0 }
        r := if w.extractLsb' 0 4 ∈ [2#4, 3#4, 4#4, 5#4] then ⟨0, 0⟩ else s.r
        trace := tr }) ∧
  (∀ (s : State) (w : Limb), (s.busy = true ∨ ∀ i, decodeWord w ≠ .ok i) →
    ∃ a b, hostWrite 0x000#12 w s = { s with errOp := a, errBusy := b })

/-- R243: while busy, a write of `CMD` or of any operand word is dropped and sets `ERR_BUSY`. -/
def Obligations.BusyWritesAreDropped : Prop :=
  ∀ (s : State) (wa : WordAddr) (v : Limb), s.busy = true →
    (wa.toNat = 0x000 ∨ (0x008 ≤ wa.toNat ∧ wa.toNat < 0x020)) →
    hostWrite wa v s = { s with errBusy := true }

/-- R64, R244: a write of a read-only or reserved word sets `ERR_ADDR` and nothing else, busy or not;
a reserved word reads 0; a read sets no flag. -/
def Obligations.ReadOnlyAndReservedWords : Prop :=
  (∀ (s : State) (wa : WordAddr) (v : Limb),
    ((0x002 ≤ wa.toNat ∧ wa.toNat < 0x008) ∨ 0x020 ≤ wa.toNat) →
    hostWrite wa v s = { s with errAddr := true }) ∧
  (∀ (cfg : Cfg) (s : State) (wa : WordAddr),
    ((0x002 ≤ wa.toNat ∧ wa.toNat < 0x008) ∨ (0x028 ≤ wa.toNat ∧ wa.toNat < 0x200) ∨
      (0x610 ≤ wa.toNat ∧ wa.toNat < 0x800) ∨ 0xC00 ≤ wa.toNat) → hostRead cfg wa s = 0) ∧
  (∀ (cfg : Cfg) (s : State) (wa : WordAddr),
    (receive cfg wa s).errOp = s.errOp ∧ (receive cfg wa s).errBusy = s.errBusy ∧
      (receive cfg wa s).errAddr = s.errAddr)

/-- While not busy, an operand word reads as it was last written and every other word as before
(R46, R63, R70). -/
def Obligations.OperandWriteThenRead : Prop :=
  ∀ (cfg : Cfg) (s : State) (wa : WordAddr) (v : Limb), s.busy = false →
    0x008 ≤ wa.toNat → wa.toNat < 0x020 →
    hostRead cfg wa (hostWrite wa v s) = v ∧
      ∀ wb : WordAddr, wb ≠ wa → hostRead cfg wb (hostWrite wa v s) = hostRead cfg wb s

/-- The words of the operand and result registers, limb 0 first; `CMD` reads 0, and `R` reads 0 while
busy (R25, R44, R60, R63). -/
def Obligations.RegisterWordsReadLittleEndian : Prop :=
  ∀ (cfg : Cfg) (s : State) (j : Nat), j < 4 →
    hostRead cfg 0x000#12 s = 0 ∧
    hostRead cfg (0x008#12 + BitVec.ofNat 12 j) s = s.ka.extractLsb' (64 * j) 64 ∧
    hostRead cfg (0x00C#12 + BitVec.ofNat 12 j) s = s.kb.extractLsb' (64 * j) 64 ∧
    hostRead cfg (0x010#12 + BitVec.ofNat 12 j) s = s.p.x.extractLsb' (64 * j) 64 ∧
    hostRead cfg (0x014#12 + BitVec.ofNat 12 j) s = s.p.y.extractLsb' (64 * j) 64 ∧
    hostRead cfg (0x018#12 + BitVec.ofNat 12 j) s = s.q.x.extractLsb' (64 * j) 64 ∧
    hostRead cfg (0x01C#12 + BitVec.ofNat 12 j) s = s.q.y.extractLsb' (64 * j) 64 ∧
    hostRead cfg (0x020#12 + BitVec.ofNat 12 j) s =
      (if s.busy then 0 else s.r.x.extractLsb' (64 * j) 64) ∧
    hostRead cfg (0x024#12 + BitVec.ofNat 12 j) s =
      (if s.busy then 0 else s.r.y.extractLsb' (64 * j) 64)

/-- The words of the ROM windows: `x.limb[0..3]` then `y.limb[0..3]` of each affine slot, and
`x, y, t, z` of `GFIX` with `z.limb[0..3] = (1, 0, 0, 0)` (R69). -/
def Obligations.RomWindowLayout : Prop :=
  ∀ (cfg : Cfg) (s : State) (j : Nat), j < 4 →
    (∀ i, i < 64 →
      hostRead cfg (BitVec.ofNat 12 (0x200 + 8 * i + j)) s = limb (romEntry cfg .gt0 i).x j ∧
      hostRead cfg (BitVec.ofNat 12 (0x200 + 8 * i + 4 + j)) s = limb (romEntry cfg .gt0 i).y j ∧
      hostRead cfg (BitVec.ofNat 12 (0x400 + 8 * i + j)) s = limb (romEntry cfg .gt1 i).x j ∧
      hostRead cfg (BitVec.ofNat 12 (0x400 + 8 * i + 4 + j)) s = limb (romEntry cfg .gt1 i).y j) ∧
    (∀ i, i < 128 →
      hostRead cfg (BitVec.ofNat 12 (0x800 + 8 * i + j)) s = limb (romEntry cfg .sgt i).x j ∧
      hostRead cfg (BitVec.ofNat 12 (0x800 + 8 * i + 4 + j)) s = limb (romEntry cfg .sgt i).y j) ∧
    hostRead cfg (BitVec.ofNat 12 (0x600 + j)) s = limb (gfix cfg).x j ∧
    hostRead cfg (BitVec.ofNat 12 (0x604 + j)) s = limb (gfix cfg).y j ∧
    hostRead cfg (BitVec.ofNat 12 (0x608 + j)) s = limb cfg.genFixT j ∧
    hostRead cfg (BitVec.ofNat 12 (0x60C + j)) s = (if j = 0 then 1 else 0)

/-- R84, with the numbers of R85: the `STATUS` word, and what a write of it does. -/
def Obligations.StatusWordFormat : Prop :=
  (∀ (cfg : Cfg) (s : State),
    (hostRead cfg 0x001#12 s).getLsbD 0 = s.busy ∧ (hostRead cfg 0x001#12 s).getLsbD 1 = s.done ∧
    (hostRead cfg 0x001#12 s).extractLsb' 2 2 = 0#2 ∧
    (hostRead cfg 0x001#12 s).extractLsb' 4 4 =
      (match s.seq.phase with
        | .idle => 0#4
        | .setup => 1#4
        | .tableBuild => 2#4
        | .seed => 3#4
        | .iterate => 4#4
        | .correct => 5#4
        | .cofactor => 6#4
        | .affine => 7#4
        | .done => 8#4) ∧
    (hostRead cfg 0x001#12 s).getLsbD 8 = s.errOp ∧ (hostRead cfg 0x001#12 s).getLsbD 9 = s.errBusy ∧
    (hostRead cfg 0x001#12 s).getLsbD 10 = s.errAddr ∧
    (hostRead cfg 0x001#12 s).extractLsb' 11 53 = 0#53) ∧
  (∀ (s : State) (v : Limb),
    hostWrite 0x001#12 v s =
      { s with
        errOp := if v.getLsbD 8 then false else s.errOp
        errBusy := if v.getLsbD 9 then false else s.errBusy
        errAddr := if v.getLsbD 10 then false else s.errAddr })

/-- The error flags stay 1 over every step but a `STATUS` write of a 1 to the same bit, or reset
(R245). -/
def Obligations.ErrorFlagsAreSticky : Prop :=
  ∀ s t : State, step s = .next t →
    (∀ rest, s.turns ≠ .reset :: rest) →
    (s.errOp = true → (∀ v rest, v.getLsbD 8 = true → s.turns ≠ .write 0x001#12 v :: rest) →
      t.errOp = true) ∧
    (s.errBusy = true → (∀ v rest, v.getLsbD 9 = true → s.turns ≠ .write 0x001#12 v :: rest) →
      t.errBusy = true) ∧
    (s.errAddr = true → (∀ v rest, v.getLsbD 10 = true → s.turns ≠ .write 0x001#12 v :: rest) →
      t.errAddr = true)

/-- A command runs the same whatever the error flags are, and leaves them as they are (R245). -/
def Obligations.ErrorFlagsDoNotAffectCommands : Prop :=
  ∀ (i : Instr) (s : State) (a b c : Bool), s.busy = false →
    ∃ t, exec i s = .next t ∧ t.errOp = s.errOp ∧ t.errBusy = s.errBusy ∧ t.errAddr = s.errAddr ∧
      exec i { s with errOp := a, errBusy := b, errAddr := c } =
        .next { t with errOp := a, errBusy := b, errAddr := c }

/-- A host read changes no state of the block; the word goes to the host, whose list is the model's
(R67; log 4). -/
def Obligations.ReadsChangeNothing : Prop :=
  ∀ (s : State) (wa : WordAddr) (rest : List Turn), s.turns = .read wa :: rest →
    step s = .next { s with turns := rest, reads := s.reads ++ [hostRead Config.cfg wa s] }

/-- No step changes a ROM word (R33, R262). -/
def Obligations.RomNeverChanges : Prop :=
  ∀ (s t : State) (wa : WordAddr), step s = .next t →
    ((0x200 ≤ wa.toNat ∧ wa.toNat < 0x610) ∨ (0x800 ≤ wa.toNat ∧ wa.toNat < 0xC00)) →
    hostRead Config.cfg wa t = hostRead Config.cfg wa s

/-! ### Reset -/

/-- R261: every register after reset, and the ROM, which reset does not change. -/
def Obligations.ResetValues : Prop :=
  State.reset.ka = 0 ∧ State.reset.kb = 0 ∧ State.reset.p = ⟨0, 0⟩ ∧ State.reset.q = ⟨0, 0⟩ ∧
    State.reset.r = ⟨0, 0⟩ ∧ State.reset.s0 = 0 ∧ State.reset.s1 = 0 ∧ State.reset.s2 = 0 ∧
    State.reset.s3 = 0 ∧ State.reset.rb = 0 ∧ (∀ reg, State.reset.point reg = ⟨0, 0, 0, 0⟩) ∧
    (∀ k, k < 8 → State.reset.slot k = ⟨0, 0, 0, 0⟩) ∧
    State.reset.sg0 = false ∧ State.reset.sg1 = false ∧ State.reset.sg2 = false ∧
    State.reset.sg3 = false ∧ State.reset.lsb = false ∧ State.reset.clsb = false ∧
    State.reset.busy = false ∧ State.reset.done = false ∧ State.reset.seq = ⟨.idle, 0, 0⟩ ∧
    State.reset.errOp = false ∧ State.reset.errBusy = false ∧ State.reset.errAddr = false ∧
    State.reset.opl = 0 ∧ State.reset.mcl = false ∧
    (∀ (cfg : Cfg) (s : State) (wa : WordAddr),
      ((0x200 ≤ wa.toNat ∧ wa.toNat < 0x610) ∨ (0x800 ≤ wa.toNat ∧ wa.toNat < 0xC00)) →
      hostRead cfg wa (resetEvent s) = hostRead cfg wa s)

/-- The reset event, in any state, a command in progress or not, puts every register at its reset
value (R260, R263); the host's own lists stay, which is the model's choice (log 14). -/
def Obligations.ResetEventFromAnyState : Prop :=
  ∀ (s : State) (rest : List Turn), s.turns = .reset :: rest →
    step s = .next { State.reset with turns := rest, reads := s.reads }

/-! ### The commands: where each completes, with its result and its frame -/

/-- `MASK_SCALAR` completes in one micro-operation in `SETUP`, `KA` becomes `KA & (2^251 − 1)`, the trace
is empty, and nothing changes but `SEQ`, `OPL`, `MCL` and the status (R100, R172, R173). That `exec` is
one transition is log 1; `II` and `SUB` after completion are log 12. -/
def Obligations.MaskScalarResult : Prop :=
  ∀ s : State, s.busy = false →
    exec .maskScalar s = .next
      { s with
        ka := s.ka &&& BitVec.ofNat 256 (2 ^ 251 - 1)
        opl := 1, mcl := false, busy := false, done := true
        seq := { phase := .done, ii := 0, sub := 0 }
        trace := [] } ∧
    (accept .maskScalar s).seq.phase = .setup ∧
    coreStep Config.cfg (accept .maskScalar s) = exec .maskScalar s

/-- Masking is idempotent, its result is below `2^251` and so below every `q` of R6, it can be
0, and it keeps bytes 0 to 30 and the low three bits of byte 31 (R101, whose part (d) is the spec's own
inference, and invariant 6 of R194; log 1). -/
def Obligations.MaskScalarProperties : Prop :=
  ∀ s : State, s.busy = false → ∃ t u, exec .maskScalar s = .next t ∧ exec .maskScalar t = .next u ∧
    u.ka = t.ka ∧ t.ka.toNat < 2 ^ 251 ∧ (∀ q, 2 ^ 251 < q → t.ka.toNat < q) ∧
    (s.ka.toNat % 2 ^ 251 = 0 → t.ka = 0) ∧
    (∀ n, n < 31 → t.ka.extractLsb' (8 * n) 8 = s.ka.extractLsb' (8 * n) 8) ∧
    t.ka.extractLsb' 248 8 = s.ka.extractLsb' 248 8 &&& 0x07#8 ∧ maskingIsIdempotent s

/-- `MUL` completes from every state that is not busy, as one transition (logs 1, 12): `R` is the affine encoding of `X` (R191), the
bases and recoded words are those of the decomposition of `KA` and of `P` (R178, R110), and the
registers the command does not list keep their values (R83, R180). -/
def Obligations.MulCompletes : Prop :=
  ∀ s : State, s.busy = false → ∃ t, exec .mul s = .next t ∧
    t.r = Config.cfg.curve.ecAffine t.x ∧ finished t ∧ t.opl = 2 ∧ t.mcl = false ∧
    t.sg0 = (Config.cfg.curve.glsDecompose s.ka).sa ∧
    t.sg1 = (Config.cfg.curve.glsDecompose s.ka).sb ∧
    t.lsb = !(Config.cfg.curve.glsDecompose s.ka).a.getLsbD 0 ∧
    t.s0 = recodeSign 128 (Config.cfg.curve.glsDecompose s.ka).a ∧
    t.s1 = recodeCompanion 128 t.s0 (Config.cfg.curve.glsDecompose s.ka).b ∧
    t.b0 = Config.cfg.curve.ecCondNeg t.sg0 (Config.cfg.curve.ecExpand s.p.x s.p.y) ∧
    t.b1 = Config.cfg.curve.ecCondNeg t.sg1
      (Config.cfg.curve.ecExpand (Config.cfg.curve.glsMorph s.p.x s.p.y).x
        (Config.cfg.curve.glsMorph s.p.x s.p.y).y) ∧
    sameHostSide s t ∧ t.s2 = s.s2 ∧ t.s3 = s.s3 ∧ t.rb = s.rb ∧ t.b2 = s.b2 ∧ t.b3 = s.b3 ∧
    t.sg2 = s.sg2 ∧ t.sg3 = s.sg3 ∧ t.clsb = s.clsb

/-- `MUL_GEN` completes from every state that is not busy, as one transition (logs 1, 12): `R` is the affine encoding of `X` (R191),
`RB` and `CLSB` are the comb recoding of `KA` (R151, R152), `TS`, `X`, `TT`, `R` and the trace apart
nothing else changes but `SEQ`, `OPL`, `MCL` and the status (R83, R125, R182). -/
def Obligations.MulGenCompletes : Prop :=
  ∀ (mc : Bool) (s : State), s.busy = false → ∃ t, exec (.mulGen mc) s = .next t ∧
    t.r = Config.cfg.curve.ecAffine t.x ∧ finished t ∧ t.opl = 3 ∧ t.mcl = mc ∧
    t.clsb = (!s.ka.getLsbD 0) ∧
    t.rb = combRecode 36 252 (combScalar s.ka (Config.cfg.curve.negModQ s.ka)) ∧
    t.ts = gfix Config.cfg ∧
    sameHostSide s t ∧ t.s0 = s.s0 ∧ t.s1 = s.s1 ∧ t.s2 = s.s2 ∧ t.s3 = s.s3 ∧ t.b0 = s.b0 ∧
    t.b1 = s.b1 ∧ t.b2 = s.b2 ∧ t.b3 = s.b3 ∧ t.tab = s.tab ∧ t.sg0 = s.sg0 ∧ t.sg1 = s.sg1 ∧
    t.sg2 = s.sg2 ∧ t.sg3 = s.sg3 ∧ t.lsb = s.lsb

/-- `SIMUL` completes from every state that is not busy (R184), as one transition (logs 1, 12): the result
(R191), the signs, bases and recoded words of both decompositions (R111, R178), and what stays. -/
def Obligations.SimulCompletes : Prop :=
  ∀ s : State, s.busy = false → ∃ t, exec .simul s = .next t ∧
    t.r = Config.cfg.curve.ecAffine t.x ∧ finished t ∧ t.opl = 4 ∧ t.mcl = false ∧
    t.sg0 = (Config.cfg.curve.glsDecompose s.ka).sa ∧
    t.sg1 = (Config.cfg.curve.glsDecompose s.ka).sb ∧
    t.sg2 = (Config.cfg.curve.glsDecompose s.kb).sa ∧
    t.sg3 = (Config.cfg.curve.glsDecompose s.kb).sb ∧
    t.lsb = !(Config.cfg.curve.glsDecompose s.ka).a.getLsbD 0 ∧
    t.s0 = recodeSign 127 (Config.cfg.curve.glsDecompose s.ka).a ∧
    t.s1 = recodeCompanion 127 t.s0 (Config.cfg.curve.glsDecompose s.ka).b ∧
    t.s2 = recodeCompanion 127 t.s0 (Config.cfg.curve.glsDecompose s.kb).a ∧
    t.s3 = recodeCompanion 127 t.s0 (Config.cfg.curve.glsDecompose s.kb).b ∧
    t.b0 = Config.cfg.curve.ecCondNeg t.sg0 (Config.cfg.curve.ecExpand s.p.x s.p.y) ∧
    t.b1 = Config.cfg.curve.ecCondNeg t.sg1
      (Config.cfg.curve.ecExpand (Config.cfg.curve.glsMorph s.p.x s.p.y).x
        (Config.cfg.curve.glsMorph s.p.x s.p.y).y) ∧
    t.b2 = Config.cfg.curve.ecCondNeg t.sg2 (Config.cfg.curve.ecExpand s.q.x s.q.y) ∧
    t.b3 = Config.cfg.curve.ecCondNeg t.sg3
      (Config.cfg.curve.ecExpand (Config.cfg.curve.glsMorph s.q.x s.q.y).x
        (Config.cfg.curve.glsMorph s.q.x s.q.y).y) ∧
    sameHostSide s t ∧ t.rb = s.rb ∧ t.ts = s.ts ∧ t.clsb = s.clsb

/-- `SIMUL_GEN` completes from every state that is not busy (R186), as one transition (logs 1, 12): the
result (R191), the signs, bases and recoded words of `KB` (R110, R178), the comb buffer of `KA` (R153),
and what stays. -/
def Obligations.SimulGenCompletes : Prop :=
  ∀ s : State, s.busy = false → ∃ t, exec .simulGen s = .next t ∧
    t.r = Config.cfg.curve.ecAffine t.x ∧ finished t ∧ t.opl = 5 ∧ t.mcl = false ∧
    t.sg0 = (Config.cfg.curve.glsDecompose s.kb).sa ∧
    t.sg1 = (Config.cfg.curve.glsDecompose s.kb).sb ∧
    t.lsb = !(Config.cfg.curve.glsDecompose s.kb).a.getLsbD 0 ∧
    t.s0 = recodeSign 128 (Config.cfg.curve.glsDecompose s.kb).a ∧
    t.s1 = recodeCompanion 128 t.s0 (Config.cfg.curve.glsDecompose s.kb).b ∧
    t.clsb = (!s.ka.getLsbD 0) ∧
    t.rb = combRecode 32 256 (combScalar s.ka (Config.cfg.curve.negModQ s.ka)) ∧
    t.b0 = Config.cfg.curve.ecCondNeg t.sg0 (Config.cfg.curve.ecExpand s.q.x s.q.y) ∧
    t.b1 = Config.cfg.curve.ecCondNeg t.sg1
      (Config.cfg.curve.ecExpand (Config.cfg.curve.glsMorph s.q.x s.q.y).x
        (Config.cfg.curve.glsMorph s.q.x s.q.y).y) ∧
    sameHostSide s t ∧ t.s2 = s.s2 ∧ t.s3 = s.s3 ∧ t.b2 = s.b2 ∧ t.b3 = s.b3 ∧ t.sg2 = s.sg2 ∧
    t.sg3 = s.sg3

/-- Every byte of the host register space reads after a command as before, but for the `STATUS` word
and the command's output register: limb 3's top byte of `KA` for `MASK_SCALAR`, the words of `R` for a
driver (10_state.md R46, 20_memory.md R61, R63). -/
def Obligations.CommandsKeepEveryOtherByte : Prop :=
  ∀ (i : Instr) (s : State), s.busy = false → ∃ t, exec i s = .next t ∧
    ∀ ba : Nat, ba < 8 * 4096 → ba / 8 ≠ 0x001 →
      (i = .maskScalar → ba ≠ 8 * 0x00B + 7) →
      (i ≠ .maskScalar → ba / 8 < 0x020 ∨ 0x028 ≤ ba / 8) →
      readByte Config.cfg ba t = readByte Config.cfg ba s

/-! ### The sequencer -/

/-- The whole command as one transition is its core steps one after another: after acceptance, exactly
`coreSteps i` steps with nothing asked give the state `exec` gives (R170, R175). -/
def Obligations.WholeCommandIsItsCoreSteps : Prop :=
  ∀ (i : Instr) (s : State), s.busy = false →
    Host.Core.run Sys2Proof.core (coreSteps i) { accept i s with turns := [] } =
      exec i { s with turns := [] }

/-- Before its last micro-operation a command is busy and not done, and a driver's `R` is 0 (R25,
R172, R173). -/
def Obligations.BusyUntilTheLastMicroOperation : Prop :=
  ∀ (i : Instr) (s : State) (n : Nat), s.busy = false → n < coreSteps i →
    ∃ t : State, Host.Core.run Sys2Proof.core n { accept i s with turns := [] } = .next t ∧
      t.busy = true ∧ t.done = false ∧ (i.isDriver = true → t.r = ⟨0, 0⟩)

/-- The numbers of core steps of the commands (95_test_vectors.md 2.11). -/
def Obligations.CoreStepCounts : Prop :=
  coreSteps .maskScalar = 1 ∧ coreSteps .mul = 261 ∧ coreSteps (.mulGen false) = 74 ∧
    coreSteps (.mulGen true) = 76 ∧ coreSteps .simul = 389 ∧ coreSteps .simulGen = 326

/-- The next position is a function of `OPL`, `MCL` and `SEQ` alone, and so are `BUSY` and `DONE`
after a core step (R42, R174). -/
def Obligations.SequencerIgnoresData : Prop :=
  ∀ (cfg : Cfg) (s t s' t' : State), s.busy = true → t.busy = true → s.opl = t.opl →
    s.mcl = t.mcl → s.seq = t.seq → coreStep cfg s = .next s' → coreStep cfg t = .next t' →
    s'.seq = t'.seq ∧ s'.busy = t'.busy ∧ (s.done = t.done → s'.done = t'.done)

/-- `PHASE` never decreases over a core step of a command (R171, R175). -/
def Obligations.PhaseNeverDecreases : Prop :=
  ∀ (cfg : Cfg) (s t : State), runInv s = true → s.busy = true → coreStep cfg s = .next t →
    (phaseCode s.seq.phase).toNat ≤ (phaseCode t.seq.phase).toNat

/-- A host write while busy cannot change what a core step computes: only the error flags can differ
(R71, R266). -/
def Obligations.HostCannotDisturbACommand : Prop :=
  ∀ (cfg : Cfg) (s t : State) (wa : WordAddr) (v : Limb), s.busy = true →
    coreStep cfg s = .next t →
    ∃ a b c, coreStep cfg (hostWrite wa v s) =
      .next { t with errOp := a, errBusy := b, errAddr := c }

/-- The invariant of a run holds at reset. -/
def Obligations.RunInvariantAtReset : Prop := runInv State.reset = true

/-- Every step keeps the invariant of a run, from every state that has it: `BUSY` and `DONE` are never
both 1, `PHASE` is `DONE` exactly when `DONE = 1`, and a busy core is at a position of the latched
command's list with a driver's `R` at 0 (R45, R170, R172, R173, R176). -/
def Obligations.StepKeepsRunInvariant : Prop :=
  ∀ s t : State, runInv s = true → step s = .next t → runInv t = true

/-- From every state with the invariant of a run, a step answers a next state: nothing faults and
nothing is refused, on any operand and any host access (R240). -/
def Obligations.NothingFaults : Prop :=
  ∀ s : State, runInv s = true → ∃ t, step s = .next t

/-! ### The constant-time property and purity -/

/-- For every command but `SIMUL_GEN` the trace and the number of core steps are functions of the command
alone (the spec's own inference R271, invariant 5 of R194; logs 1, 6). -/
def Obligations.TraceInvariance : Prop :=
  ∀ i : Instr, i ≠ .simulGen → ∃ (tr : List Event) (n : Nat), traceIsFixed i tr n

/-- `SIMUL_GEN`: only the selectors' reads may vary with the operands; every other event, the table
generator's reads among them, does not, and the number of core steps is 326 (R272,
95_test_vectors.md 2.11). One transition for the whole command is log 1, the form of the events log 6. -/
def Obligations.SimulGenOnlyReadsVary : Prop :=
  ∃ tr : List Event, ∀ s : State, s.busy = false →
    ∃ t u, exec .simulGen s = .next t ∧ withoutSelectorReads t.trace = tr ∧
      completesAfter .simulGen 326 s u ∧ withoutSelectorReads u.trace = tr ∧
      exec .simulGen { s with turns := [] } = .next u

/-- The final `R` of a driver, and `KA` of `MASK_SCALAR`, depend only on the command word and
the operand registers it lists (the spec's own inference R195; log 1). -/
def Obligations.CommandsArePure : Prop :=
  ∀ (i : Instr) (s t : State), s.busy = false → t.busy = false → sameOperands i s t →
    ∃ s' t', exec i s = .next s' ∧ exec i t = .next t' ∧
      (i.isDriver = true → s'.r = t'.r) ∧ (i = .maskScalar → s'.ka = t'.ka)

/-! ### The recoders -/

/-- The value law of `RECODE2` and `RECODE4`, with `N` the positions of digit −1 below the top one, and
the closed form of a companion (the spec's own inferences R113, R115; invariant 7 of R194). -/
def Obligations.RecodeValueLaw : Prop :=
  ∀ (len : Nat) (s : State), len = 127 ∨ len = 128 →
    1 ≤ s.s0.toNat → s.s0.toNat ≤ 2 ^ len →
    ∀ t, t = recode2 len s ∨ t = recode4 len s →
      signValue len t.s0 = (s.s0.toNat : Int) - (if t.lsb then 1 else 0) ∧ t.s0 >>> len = 0 ∧
      ∀ N : U128, N = ~~~t.s0 &&& BitVec.ofNat 128 (2 ^ (len - 1) - 1) →
        (s.s1.toNat + N.toNat ≤ 2 ^ len - 1 →
          recodingRoundTrips len s t ∧ t.s1 >>> len = 0 ∧
            t.s1 = (s.s1 + N) ^^^ N) ∧
        (t = recode4 len s → s.s2.toNat + N.toNat ≤ 2 ^ len - 1 →
          companionValue len t.s0 t.s2 = s.s2.toNat ∧ t.s2 >>> len = 0 ∧
            t.s2 = (s.s2 + N) ^^^ N) ∧
        (t = recode4 len s → s.s3.toNat + N.toNat ≤ 2 ^ len - 1 →
          companionValue len t.s0 t.s3 = s.s3.toNat ∧ t.s3 >>> len = 0 ∧
            t.s3 = (s.s3 + N) ^^^ N)

/-- After either recoder `LSB` is 1 exactly for an even sign-word subscalar, and bit `len − 1` of `S0`
is 1 and the bits above it are 0, so the seed of `SEL2` at length 128 and that of `SEL4` at length 127
are not negated (the spec's own inferences R112, R114). -/
def Obligations.RecodedTopDigit : Prop :=
  (∀ (len : Nat) (s t : State), len = 127 ∨ len = 128 → t = recode2 len s ∨ t = recode4 len s →
    (t.lsb = true ↔ s.s0.toNat % 2 = 0) ∧ t.s0.getLsbD (len - 1) = true ∧ t.s0 >>> len = 0) ∧
  (∀ s : State, sel2Neg (recode2 128 s).s0 126 = false ∧ sel4Neg (recode4 127 s).s0 126 = false)

/-- The sign word of 0 is all ones below `len` with `LSB = 1`, that of 1 is the top digit alone with
`LSB = 0` (the spec's own inference R116 (a), (c)). -/
def Obligations.RecodedSignWordCorners : Prop :=
  recodeSign 128 0 = BitVec.allOnes 128 ∧ recodeSign 127 0 = BitVec.ofNat 128 (2 ^ 127 - 1) ∧
    recodeLsb 0 = true ∧ recodeSign 128 1 = BitVec.ofNat 128 (2 ^ 127) ∧
    recodeSign 127 1 = BitVec.ofNat 128 (2 ^ 126) ∧ recodeLsb 1 = false

/-- The value law of `COMBREC(d, l)` for both tunings, for a scalar of the domain and a `neg_mod_q` that
meets its contract (the spec's own inference R154, with R225). -/
def Obligations.CombRecodeValueLaw : Prop :=
  ∀ (cfg : Cfg) (s : State) (d l : Nat), (d = 36 ∧ l = 252) ∨ (d = 32 ∧ l = 256) →
    cfg.qOrder % 2 = 1 → cfg.qOrder < 2 ^ 252 →
    (∀ k, scalarInDomain cfg k → (cfg.curve.negModQ k).toNat = cfg.qOrder - k.toNat) →
    scalarInDomain cfg s.ka →
    ∀ k' : Nat, k' = (if (combrec cfg d l s).clsb then cfg.qOrder - s.ka.toNat else s.ka.toNat) →
      k' % 2 = 1 ∧ 0 < k' ∧ k' < cfg.qOrder ∧
      (k' : Int) = combValue d l (combrec cfg d l s).rb ∧
      signValue d (combrec cfg d l s).rb = (k' : Int) % 2 ^ d ∧ (combrec cfg d l s).ka = s.ka

/-- The top carry of tuning 72: on the domain `RB` is below `2^253`, so its part above bit 251 is the
one bit 252 (R155). -/
def Obligations.TopCarryIsOneBit : Prop :=
  ∀ b : U256, b.getLsbD 0 = true → b.toNat < 2 ^ 252 →
    (combRecode 36 252 b).toNat < 2 ^ 253 ∧
      (combRecode 36 252 b >>> 252).toNat = (topCarry (combRecode 36 252 b)).toNat

/-! ### The selectors -/

/-- R130: the mask of a slot is all ones for the wanted slot and all zeros for another. -/
def Obligations.GenMaskSelectsOneSlot : Prop :=
  ∀ i k : Nat, i < 2 ^ 63 → k < 2 ^ 63 → genMask i k = if i = k then BitVec.allOnes 64 else 0

/-- The masked scan returns the wanted slot bit for bit and reads every slot in increasing order, for
the table RAM and every affine ROM; it changes nothing but the trace (the spec's own inference in
R132). -/
def Obligations.ScanSelectFetchesTheSlot : Prop :=
  (∀ (k : Nat) (s : State), k < 8 →
    scanTab k s = (s.slot k,
      { s with trace := s.trace ++ (List.range 8).map fun i => Event.rd .tab i })) ∧
  (∀ (cfg : Cfg) (m : AffineRom) (k : Nat) (s : State), k < m.slots →
    scanRom cfg m k s = (romEntry cfg m k,
      { s with trace := s.trace ++ (List.range m.slots).map fun i => Event.rd m.name i }))

/-- R141: with `ct = 0` the fetched bits are those of `ct = 1`; the reads are a list that contains the
wanted slot, and every such list is that of some configuration. -/
def Obligations.VariableTimeFetchOnlyChangesReads : Prop :=
  (∀ (cfg : Cfg) (k : Nat) (s : State), k < 8 →
    (fetchTab cfg false k s).1 = (fetchTab cfg true k s).1 ∧
    ∃ l : List Nat, k ∈ l ∧
      (fetchTab cfg false k s).2 = { s with trace := s.trace ++ l.map fun i => Event.rd .tab i }) ∧
  (∀ (cfg : Cfg) (k : Nat) (s : State), k < 128 →
    (fetchRomVt cfg .sgt k s).1 = (scanRom cfg .sgt k s).1 ∧
    ∃ l : List Nat, k ∈ l ∧
      (fetchRomVt cfg .sgt k s).2 =
        { s with trace := s.trace ++ l.map fun i => Event.rd .sgt i }) ∧
  (∀ (m : TableName) (k : Nat) (l : List Nat), k ∈ l → ∃ cfg : Cfg, vtSlots cfg m k = l)

/-- What `SEL2` selects from the m=2 table, and the sum of the windows (the spec's own inference
R134). -/
def Obligations.Sel2ValueLaw : Prop :=
  ∀ (F E : Type) [Field F] [AddCommGroup E] (cfg : Cfg) (L : GroupLaws cfg F E) (s : State) (A B : E),
    (∀ k, k < 8 → L.rep (s.slot k) (slot2Value k A B)) →
    (∀ (index : Nat) (ct : Bool) (dest : PointReg), index % 2 = 0 → index ≤ 126 →
      L.rep ((sel2 cfg index ct dest s).point dest) (window2Value s.s0 s.s1 index A B)) ∧
    (∑ j ∈ Finset.range 64, (4 : Int) ^ j • window2Value s.s0 s.s1 (2 * j) A B) =
      signValue 128 s.s0 • A + companionValue 128 s.s0 s.s1 • B

/-- What `SEL4` selects from the m=4 table, and the sum of the columns (the spec's own inference
R136). -/
def Obligations.Sel4ValueLaw : Prop :=
  ∀ (F E : Type) [Field F] [AddCommGroup E] (cfg : Cfg) (L : GroupLaws cfg F E) (s : State)
    (A B C D : E), (∀ k, k < 8 → L.rep (s.slot k) (slot4Value k A B C D)) →
    (∀ (index : Nat) (dest : PointReg), index ≤ 126 →
      L.rep ((sel4 cfg index dest s).point dest)
        (window4Value s.s0 s.s1 s.s2 s.s3 index A B C D)) ∧
    (∑ i ∈ Finset.range 127, (2 : Int) ^ i • window4Value s.s0 s.s1 s.s2 s.s3 i A B C D) =
      signValue 127 s.s0 • A + companionValue 127 s.s0 s.s1 • B +
        companionValue 127 s.s0 s.s2 • C + companionValue 127 s.s0 s.s3 • D

/-- What `SELCOMB72` selects: for column `ep` the entries of both sub-tables with the sign of their column
(R137, with the spec's own inferences R157 and R159; the ROM as a function of the configuration is
log 8). -/
def Obligations.SelComb72ValueLaw : Prop :=
  ∀ (F E : Type) [Field F] [AddCommGroup E] (cfg : Cfg) (L : GroupLaws cfg F E) (s : State) (ep : Nat),
    ep < 18 →
    L.rep (selcomb72 cfg ep s).ts
      ((dig s.rb ep *
        (1 + ∑ wp ∈ Finset.Ico 1 7, bitInt s.rb (wp * 36 + ep) * 2 ^ (36 * wp))) • L.g) ∧
    L.rep (selcomb72 cfg ep s).tt
      ((dig s.rb (18 + ep) * (2 ^ 18 *
        (1 + ∑ wp ∈ Finset.Ico 1 7, bitInt s.rb (wp * 36 + 18 + ep) * 2 ^ (36 * wp)))) • L.g)

/-- What `SELCOMB81` selects: the entry of column `ep`, with the sign of its column and the folded
sign of the comb recoding (R138, R188, with the spec's own inferences R158 and R161; the ROM as a function
of the configuration is log 8). -/
def Obligations.SelComb81ValueLaw : Prop :=
  ∀ (F E : Type) [Field F] [AddCommGroup E] (cfg : Cfg) (L : GroupLaws cfg F E) (s : State) (ep : Nat),
    ep < 32 →
    L.rep (selcomb81 cfg ep s).tt
      (((if s.clsb then -1 else 1) * dig s.rb ep *
        (1 + ∑ wp ∈ Finset.Ico 1 8, bitInt s.rb (wp * 32 + ep) * 2 ^ (32 * wp))) • L.g)

/-! ### The tables -/

/-- The slots of `GENTAB2` as group elements, and what it leaves alone: all but `TAB`, its scratch
registers and the trace (R120). -/
def Obligations.GenTab2Slots : Prop :=
  ∀ (F E : Type) [Field F] [AddCommGroup E] (cfg : Cfg) (L : GroupLaws cfg F E) (s : State) (A B : E),
    L.rep s.b0 A → L.rep s.b1 B →
    (∀ k, k < 8 → L.rep ((gentab2 cfg.curve s).slot k) (slot2Value k A B)) ∧
    ∃ tab ts tt tr, gentab2 cfg.curve s = { s with tab := tab, ts := ts, tt := tt, trace := tr }

/-- The slots of `GENTAB4` as group elements, and what it leaves alone: all but `TAB` and the trace
(R122). -/
def Obligations.GenTab4Slots : Prop :=
  ∀ (F E : Type) [Field F] [AddCommGroup E] (cfg : Cfg) (L : GroupLaws cfg F E) (s : State)
    (A B C D : E), L.rep s.b0 A → L.rep s.b1 B → L.rep s.b2 C → L.rep s.b3 D →
    (∀ k, k < 8 → L.rep ((gentab4 cfg.curve s).slot k) (slot4Value k A B C D)) ∧
    ∃ tab tr, gentab4 cfg.curve s = { s with tab := tab, trace := tr }

/-- The ROM entries are the canonical affine encodings of the comb multiples of `G`, and
`GFIX` is `2^252·G` with `z = 1` (R160, R162 and the spec's own inferences R159, R161; log 8). -/
def Obligations.RomHoldsMultiplesOfG : Prop :=
  ∀ (F E : Type) [Field F] [AddCommGroup E] (cfg : Cfg) (L : GroupLaws cfg F E),
    (∀ i, i < 64 →
      romEntry cfg .gt0 i = L.encode
        ((1 + ∑ wp ∈ Finset.Ico 1 7, (i / 2 ^ (wp - 1) % 2) * 2 ^ (36 * wp)) • L.g) ∧
      romEntry cfg .gt1 i = L.encode
        ((2 ^ 18 * (1 + ∑ wp ∈ Finset.Ico 1 7, (i / 2 ^ (wp - 1) % 2) * 2 ^ (36 * wp))) • L.g)) ∧
    (∀ i, i < 128 →
      romEntry cfg .sgt i = L.encode
        ((1 + ∑ wp ∈ Finset.Ico 1 8, (i / 2 ^ (wp - 1) % 2) * 2 ^ (32 * wp)) • L.g)) ∧
    (gfix cfg).x = (L.encode (2 ^ 252 • L.g)).x ∧ (gfix cfg).y = (L.encode (2 ^ 252 • L.g)).y ∧
      (gfix cfg).z = 1

/-- `AffineToExt` is `ec_expand` on every pair; for a pair on the curve it is a valid representation of its
coordinates and its affine form is canonical; a pair off the curve, and the all-zero tuple, represent
nothing (R139, R215, R216, R220). -/
def Obligations.AffineToExtRepresents : Prop :=
  ∀ (F : Type) [Field F] (cfg : Cfg) (L : FieldLaws cfg F) (e : Affine) (s : State),
    (affineToExt cfg.curve e s).1 = cfg.curve.ecExpand e.x e.y ∧
    (onCurve (L.dec cfg.dCurve) (L.dec e.x) (L.dec e.y) →
      L.represents cfg (affineToExt cfg.curve e s).1 (L.dec e.x) (L.dec e.y) ∧
      cfg.curve.ecAffine (affineToExt cfg.curve e s).1 = ⟨L.enc (L.dec e.x), L.enc (L.dec e.y)⟩) ∧
    (¬ onCurve (L.dec cfg.dCurve) (L.dec e.x) (L.dec e.y) →
      ∀ u v, ¬ L.represents cfg (affineToExt cfg.curve e s).1 u v) ∧
    ∀ u v, ¬ L.represents cfg Ecpt.zero u v

/-! ### The drivers' laws -/

/-- On the domain, `MUL` leaves the canonical affine encoding of `4·k·P` in `R`, whatever collaborators
meet the contract, and `q` times it is the identity (the spec's own inference R181, invariants 1 and 8 of
R194; log 1). -/
def Obligations.MulLaw : Prop :=
  ∀ (F E : Type) [Field F] [AddCommGroup E] (cfg : Cfg) (L : GroupLaws cfg F E) (s : State) (A : E),
    s.busy = false → scalarInDomain cfg s.ka → L.pointInDomain s.p A →
    L.mulIsMultiple s A ∧ L.cofactorIsCleared s

/-- On the domain, `MUL_GEN` leaves the encoding of `k·G`, or of `4·k·G` when `MC = 1`, which is what `MUL`
leaves for `P = G` (the spec's own inference R183, invariant 2 of R194; log 1). -/
def Obligations.MulGenLaw : Prop :=
  ∀ (F E : Type) [Field F] [AddCommGroup E] (cfg : Cfg) (L : GroupLaws cfg F E) (mc : Bool) (s : State),
    s.busy = false → scalarInDomain cfg s.ka →
    L.leaves (runCommand cfg (.mulGen mc) (mulGenPlan mc) s)
      (if mc then 4 • (s.ka.toNat • L.g) else s.ka.toNat • L.g) ∧
    L.mulGenIsMulOfG s

/-- On the domain, `SIMUL` leaves the encoding of `4·(a·P + b·Q)`, the sum of what two `MUL` leave (the
spec's own inference R185, invariant 3 of R194; log 1). -/
def Obligations.SimulLaw : Prop :=
  ∀ (F E : Type) [Field F] [AddCommGroup E] (cfg : Cfg) (L : GroupLaws cfg F E) (s : State) (A B : E),
    s.busy = false → scalarInDomain cfg s.ka → scalarInDomain cfg s.kb →
    L.pointInDomain s.p A → L.pointInDomain s.q B →
    L.leaves (runCommand cfg .simul simulPlan s) (4 • (s.ka.toNat • A + s.kb.toNat • B)) ∧
    L.simulIsSumOfMuls s

/-- On the domain, `SIMUL_GEN` leaves the encoding of `4·(a·G + b·Q)`, the sum of what `MUL_GEN` and `MUL`
leave (the spec's own inference R187, invariant 4 of R194; log 1). -/
def Obligations.SimulGenLaw : Prop :=
  ∀ (F E : Type) [Field F] [AddCommGroup E] (cfg : Cfg) (L : GroupLaws cfg F E) (s : State) (B : E),
    s.busy = false → scalarInDomain cfg s.ka → scalarInDomain cfg s.kb → L.pointInDomain s.q B →
    L.leaves (runCommand cfg .simulGen simulGenPlan s)
      (4 • (s.ka.toNat • L.g + s.kb.toNat • B)) ∧
    L.simulGenIsSum s

/-! ### A host program -/

/-- The host program `ec_mask_scalar(buf)` (R94), run with any positive number of core steps before
its one poll: the host reads `DONE` and then the masked buffer, limb 0 first. -/
def Obligations.MaskScalarHostProgram : Prop :=
  ∀ (s : State) (buf : U256) (n : Nat), s.busy = false → s.errOp = false → s.errBusy = false →
    s.errAddr = false → 1 ≤ n → s.turns = hostMaskScalar buf [n] →
    ∃ t : State, Host.Core.run Sys2Proof.core (n + 10) s = .next t ∧ t.turns = [] ∧
      t.reads = s.reads ++ [0x82#64, buf.extractLsb' 0 64, buf.extractLsb' 64 64,
        buf.extractLsb' 128 64, buf.extractLsb' 192 64 &&& 0x07FFFFFFFFFFFFFF#64]
end

