-- ==== Sys2Proof/Laws/Contract.lean ====
section
/-! SUPPORT. What the collaborators' contract gives at once (46_external_collaborators.md), so that a proof
over it works with group elements and no coordinates. -/

namespace Sys2Proof

variable {cfg : Cfg} {F E : Type} [Field F] [AddCommGroup E]

/-- A tuple represents one group element at most (R220). -/
theorem PointCode.rep_unique (L : PointCode cfg F E) {V : Ecpt} {A B : E} (h : L.rep V A)
    (h' : L.rep V B) : A = B :=
  L.coords_injective (Prod.ext (h.2.1.symm.trans h'.2.1) (h.2.2.1.symm.trans h'.2.2.1))

/-- The coordinates of a group element are on the curve. -/
theorem PointCode.coords_onCurve (L : PointCode cfg F E) (A : E) :
    onCurve (L.dec cfg.dCurve) (L.coords A).1 (L.coords A).2 :=
  (L.coords_range _ _).2 ⟨A, rfl⟩

/-- `ec_affine` is a function of the element alone (R215). -/
theorem PointCode.ecAffine_rep (L : PointCode cfg F E) {V : Ecpt} {A : E} (h : L.rep V A) :
    cfg.curve.ecAffine V = L.encode A :=
  L.ecAffine V _ _ h

/-- The canonical affine encoding represents its element (R215, R220). -/
theorem PointCode.repAffine_encode (L : PointCode cfg F E) (A : E) : L.repAffine (L.encode A) A :=
  ⟨L.dec_enc _, L.dec_enc _⟩

/-- `ec_expand` of an affine pair of an element represents it (R216). -/
theorem PointCode.ecExpand_rep (L : PointCode cfg F E) {e : Affine} {A : E} (h : L.repAffine e A) :
    L.rep (cfg.curve.ecExpand e.x e.y) A := by
  have h1 : L.dec (cfg.curve.feSetSmallk 1) = 1 := L.feOne
  have hc : onCurve (L.dec cfg.dCurve) (L.dec e.x) (L.dec e.y) := by
    rw [h.1, h.2]; exact L.coords_onCurve A
  rw [L.ecExpand_fields]
  refine ⟨by rw [h1]; exact one_ne_zero, ?_, ?_, L.coords_onCurve A, ?_⟩
  · rw [h1, div_one, h.1]
  · rw [h1, div_one, h.2]
  · rw [h1, mul_one, L.feMul]

/-- `4q` times any element is the identity, so `q` times `4·A` is (R210). -/
theorem GroupLaws.order_smul_four (L : GroupLaws cfg F E) (A : E) : cfg.qOrder • 4 • A = 0 := by
  rw [smul_smul, mul_comm, ← L.card]
  exact card_nsmul_eq_zero'

/-- `q·G = O` (R210). -/
theorem GroupLaws.order_smul_generator (L : GroupLaws cfg F E) : cfg.qOrder • L.g = 0 := by
  rw [← L.generator_order]
  exact addOrderOf_nsmul_eq_zero L.g

/-- `G` is not the identity, so its pair is a point operand of the domain (R9). -/
theorem GroupLaws.generator_inDomain (L : GroupLaws cfg F E) : L.pointInDomain cfg.gAffine L.g :=
  ⟨L.generator_affine, fun h => L.parameters.order_prime.one_lt.ne' (by
    rw [← L.generator_order, h, addOrderOf_zero])⟩

end Sys2Proof
end

