-- ==== Sys2Proof/Laws/Conic.lean ====
section
/-! SUPPORT. One instance of the contract `GroupLaws` (46_external_collaborators.md R232): the curve
equation with `d = 0`, `−x² + y² = 1`, over `ZMod p` for a prime `p = 4q + 1` with `q` prime. Its points
are the units of the field, `(x, y)` for the unit `x + y`. It shows that no statement over the contract is
empty; it is not the real curve (00_scope.md R6 gives no parameter). -/

namespace Sys2Proof.Conic

open Sys2Proof Sys2Proof.Machine

/-! ### The two primes -/

/-- The subgroup order. -/
def edQ : Nat := 104907 * 2 ^ 235 + 1

/-- The field's prime. -/
def edP : Nat := 4 * edQ + 1

/-- `a ^ k % n` for `k < 2 ^ fuel`, by squaring. -/
def powMod (n a : Nat) : Nat → Nat → Nat
  | 0, _ => 1
  | fuel + 1, k =>
    let h := powMod n a fuel (k / 2)
    h * h % n * (if k % 2 = 1 then a else 1) % n

theorem powMod_eq (n a fuel k : Nat) (h : k < 2 ^ fuel) :
    ((powMod n a fuel k : Nat) : ZMod n) = (a : ZMod n) ^ k := by
  induction fuel generalizing k with
  | zero =>
    have : k = 0 := by simpa using h
    simp [powMod, this]
  | succ fuel ih =>
    have hk : k = k / 2 + k / 2 + k % 2 := by omega
    rw [powMod, ZMod.natCast_mod, Nat.cast_mul, ZMod.natCast_mod, Nat.cast_mul,
      ih (k / 2) (by rw [pow_succ] at h; omega)]
    conv_rhs => rw [hk, pow_add, pow_add]
    rcases Nat.mod_two_eq_zero_or_one k with e | e <;> simp [e]

/-- What the Lucas test asks of the base `a`, the number `n` and the primes `rs` of `n − 1`. -/
def lucasOk (n a : Nat) (rs : List Nat) : Bool :=
  powMod n a 256 (n - 1) == 1 && 1 < n && n < 2 ^ 256 &&
    rs.all fun r => powMod n a 256 ((n - 1) / r) < n && powMod n a 256 ((n - 1) / r) != 1

theorem prime_of_lucasOk {n a : Nat} {rs : List Nat} (h : lucasOk n a rs = true)
    (hrs : ∀ r, r.Prime → r ∣ n - 1 → r ∈ rs) : n.Prime := by
  simp only [lucasOk, Bool.and_eq_true, List.all_eq_true, beq_iff_eq, bne_iff_ne,
    decide_eq_true_eq] at h
  obtain ⟨⟨⟨h1, hn⟩, hb⟩, hall⟩ := h
  have lt : ∀ k, k ≤ n - 1 → k < 2 ^ 256 := fun k hk => by omega
  refine lucas_primality n (a : ZMod n) ?_ fun r hr hd => ?_
  · rw [← powMod_eq n a 256 _ (lt _ le_rfl), h1, Nat.cast_one]
  · obtain ⟨h2, h3⟩ := hall r (hrs r hr hd)
    rw [← powMod_eq n a 256 _ (lt _ (Nat.div_le_self _ _))]
    intro e
    rw [← Nat.cast_one (R := ZMod n), ZMod.natCast_eq_natCast_iff', Nat.mod_eq_of_lt h2,
      Nat.mod_eq_of_lt hn] at e
    exact h3 e

theorem edQ_prime : edQ.Prime := by
  refine prime_of_lucasOk (a := 5) (rs := [2, 3, 11, 17]) (by decide +kernel) fun r hr hd => ?_
  rw [show edQ - 1 = 2 ^ 235 * (3 * (11 ^ 2 * 17 ^ 2)) by norm_num [edQ], hr.dvd_mul, hr.dvd_mul,
    hr.dvd_mul] at hd
  have eq : ∀ {m k : Nat}, m.Prime → r ∣ m ^ k → r = m := fun hm h =>
    (Nat.prime_dvd_prime_iff_eq hr hm).1 (hr.dvd_of_dvd_pow h)
  rcases hd with h | h | h | h
  · simp [eq Nat.prime_two h]
  · simp [eq (k := 1) Nat.prime_three (by simpa using h)]
  · simp [eq (by norm_num) h]
  · simp [eq (by norm_num) h]

theorem edP_prime : edP.Prime := by
  refine prime_of_lucasOk (a := 2) (rs := [2, edQ]) (by decide +kernel) fun r hr hd => ?_
  rw [show edP - 1 = 2 ^ 2 * edQ by norm_num [edP], hr.dvd_mul] at hd
  rcases hd with h | h
  · simp [(Nat.prime_dvd_prime_iff_eq hr Nat.prime_two).1 (hr.dvd_of_dvd_pow h)]
  · simp [(Nat.prime_dvd_prime_iff_eq hr edQ_prime).1 h]

theorem edP_fact : Fact edP.Prime := ⟨edP_prime⟩

theorem edQ_lt : edQ < 2 ^ 252 := by decide

/-! ### The collaborators -/

/-- The field. -/
abbrev F := ZMod edP

/-- `fe_dec`: the integer modulo `p`. -/
def kdec (v : U256) : F := (v.toNat : F)

/-- `fe_enc`: the integer below `p`. -/
def kenc (u : F) : U256 := BitVec.ofNat 256 u.val

/-- A decomposition for `λ = 2^126`: the two halves of `k`, the first made nonzero (R224). -/
def halves (k : U256) : Decomposition :=
  let n := k.toNat
  if n % 2 ^ 126 = 0 then ⟨false, BitVec.ofNat 128 (2 ^ 126), false, BitVec.ofNat 128 (n / 2 ^ 126 - 1)⟩
  else ⟨false, BitVec.ofNat 128 (n % 2 ^ 126), false, BitVec.ofNat 128 (n / 2 ^ 126)⟩

theorem halves_value (k : U256) (h : k.toNat < 2 ^ 252) (h0 : 0 < k.toNat) :
    (halves k).sa = false ∧ (halves k).sb = false ∧
      (halves k).a.toNat + 2 ^ 126 * (halves k).b.toNat = k.toNat ∧
      1 ≤ (halves k).a.toNat ∧ (halves k).a.toNat ≤ 2 ^ 126 ∧ (halves k).b.toNat ≤ 2 ^ 126 := by
  unfold halves
  dsimp only
  generalize k.toNat = n at *
  have ha : (BitVec.ofNat 128 (n % 2 ^ 126)).toNat = n % 2 ^ 126 := by
    rw [BitVec.toNat_ofNat]; omega
  have hb : (BitVec.ofNat 128 (n / 2 ^ 126)).toNat = n / 2 ^ 126 := by
    rw [BitVec.toNat_ofNat]; omega
  have hc : (BitVec.ofNat 128 (n / 2 ^ 126 - 1)).toNat = n / 2 ^ 126 - 1 := by
    rw [BitVec.toNat_ofNat]; omega
  have hd : (BitVec.ofNat 128 (2 ^ 126)).toNat = 2 ^ 126 := by decide
  split
  · refine ⟨rfl, rfl, ?_, ?_, ?_, ?_⟩ <;> simp only [hc, hd] <;> omega
  · refine ⟨rfl, rfl, ?_, ?_, ?_, ?_⟩ <;> simp only [ha, hb] <;> omega

section Field

variable [Fact edP.Prime]

/-- The `x` of the point of the unit `a`. -/
def ptX (a : F) : F := (a - a⁻¹) * 2⁻¹

/-- The `y` of the point of the unit `a`. -/
def ptY (a : F) : F := (a + a⁻¹) * 2⁻¹

/-- A representation of the point of `a`, with `z = 1`. -/
def ptOf (a : F) : Ecpt := ⟨kenc (ptX a), kenc (ptY a), kenc (ptX a * ptY a), 1⟩

/-- The affine pair of the point of `a`. -/
def affineOf (a : F) : Affine := ⟨kenc (ptX a), kenc (ptY a)⟩

/-- The unit a tuple stands for. -/
def unitOf (V : Ecpt) : F := (kdec V.x + kdec V.y) / kdec V.z

/-- The collaborators: multiplication of units. -/
def curve : Curve where
  feMul a b := kenc (kdec a * kdec b)
  feSetSmallk n := BitVec.ofNat 256 n
  ecAdd U V := ptOf (unitOf U * unitOf V)
  ecDbl U := ptOf (unitOf U * unitOf U)
  ecNeg U := ptOf (unitOf U)⁻¹
  ecCondNeg c U := if c then ptOf (unitOf U)⁻¹ else U
  ecCondAdd c U V := if c then ptOf (unitOf U * unitOf V) else U
  ecAffine U := ⟨kenc (kdec U.x / kdec U.z), kenc (kdec U.y / kdec U.z)⟩
  ecExpand x y := ⟨x, y, kenc (kdec x * kdec y), 1⟩
  glsMorph x y := affineOf ((kdec x + kdec y) ^ 2 ^ 126)
  glsDecompose := halves
  negModQ k := BitVec.ofNat 256 (edQ - k.toNat)

/-- The configuration, with the unit `16 = 2^4`, of order `q`, for `G`. -/
def cfg : Cfg :=
  { curve := curve, pField := edP, dCurve := 0, qOrder := edQ, gAffine := affineOf 16
    lambda := 2 ^ 126, idAffine := affineOf 1, genFixT := 0, vtTrace := fun _ k => [k]
    lat := fun _ => 1 }

/-! ### The laws -/

theorem kdec_kenc (u : F) : kdec (kenc u) = u := by
  have hp : u.val < 2 ^ 256 := lt_trans (ZMod.val_lt u) (by decide)
  rw [kdec, kenc, BitVec.toNat_ofNat, Nat.mod_eq_of_lt hp, ZMod.natCast_zmod_val]

theorem kdec_one : kdec 1 = 1 := by simp [kdec]

theorem kdec_zero : kdec 0 = 0 := by simp [kdec]

theorem small_ne_zero (n : Nat) (h0 : 0 < n) (h : n < edP) : (n : F) ≠ 0 := fun e =>
  absurd (Nat.le_of_dvd h0 ((ZMod.natCast_eq_zero_iff _ _).1 e)) (Nat.not_le.2 h)

theorem two_ne : (2 : F) ≠ 0 := by
  simpa using small_ne_zero 2 (by decide) (by decide)

theorem sixteen_ne : (16 : F) ≠ 0 := by
  simpa using small_ne_zero 16 (by decide) (by decide)

theorem ptX_add_ptY (a : F) : ptX a + ptY a = a := by
  rw [ptX, ptY, ← add_mul, sub_add_add_cancel, ← two_mul, mul_comm, ← mul_assoc,
    inv_mul_cancel₀ two_ne, one_mul]

theorem pt_onCurve {a : F} (h : a ≠ 0) : onCurve (0 : F) (ptX a) (ptY a) := by
  have := two_ne
  unfold onCurve ptX ptY
  field_simp
  ring

/-- A pair on the curve is the point of the unit `u + v`. -/
theorem onCurve_unit {u v : F} (h : onCurve (0 : F) u v) :
    u + v ≠ 0 ∧ ptX (u + v) = u ∧ ptY (u + v) = v := by
  have h2 := two_ne
  have e : (u + v) * (v - u) = 1 := by unfold onCurve at h; linear_combination h
  have hz : u + v ≠ 0 := left_ne_zero_of_mul (e ▸ one_ne_zero)
  have hi : (u + v)⁻¹ = v - u := inv_eq_of_mul_eq_one_right e
  refine ⟨hz, ?_, ?_⟩
  · rw [ptX, hi]; field_simp; ring
  · rw [ptY, hi]; field_simp; ring

/-- The group: the units of the field, written additively. -/
abbrev E := Additive Fˣ

/-- The element of `E` a unit is. -/
def elt (a : F) (h : a ≠ 0) : E := Additive.ofMul (Units.mk0 a h)

/-- The unit of an element of `E`. -/
def val (A : E) : F := (Additive.toMul A : Fˣ)

theorem val_elt (a : F) (h : a ≠ 0) : val (elt a h) = a := rfl

theorem val_ne (A : E) : val A ≠ 0 := Units.ne_zero _

theorem val_add (A B : E) : val (A + B) = val A * val B := rfl

theorem val_neg (A : E) : val (-A) = (val A)⁻¹ := Units.val_inv_eq_inv_val _

theorem val_zero : val 0 = 1 := rfl

theorem val_nsmul (n : Nat) (A : E) : val (n • A) = val A ^ n := Units.val_pow_eq_pow_val _ _

theorem val_injective : Function.Injective val := fun _ _ h =>
  Additive.toMul.injective (Units.ext h)

/-- The contract up to the naming of the points. -/
def pointCode : PointCode cfg F E where
  dec := kdec
  enc := kenc
  dec_enc := kdec_kenc
  dec_zero := kdec_zero
  feMul a b := kdec_kenc _
  feOne := kdec_one
  ecExpand_fields x y := rfl
  ecAffine V u v h := by
    show (⟨kenc _, kenc _⟩ : Affine) = _
    rw [h.2.1, h.2.2.1]
  coords A := (ptX (val A), ptY (val A))
  coords_injective A B h := by
    rw [Prod.mk.injEq] at h
    exact val_injective (by rw [← ptX_add_ptY (val A), h.1, h.2, ptX_add_ptY])
  coords_range u v := by
    show onCurve (kdec 0) u v ↔ _
    rw [kdec_zero]
    constructor
    · intro h
      obtain ⟨hz, hx, hy⟩ := onCurve_unit h
      exact ⟨elt (u + v) hz, by rw [val_elt, hx, hy]⟩
    · rintro ⟨A, h⟩
      rw [Prod.mk.injEq] at h
      rw [← h.1, ← h.2]
      exact pt_onCurve (val_ne A)

theorem rep_ptOf {a : F} {A : E} (h : a = val A) : pointCode.rep (ptOf a) A := by
  subst h
  have h1 : pointCode.dec (ptOf (val A)).z = 1 := kdec_one
  have hx : pointCode.dec (ptOf (val A)).x = ptX (val A) := kdec_kenc _
  have hy : pointCode.dec (ptOf (val A)).y = ptY (val A) := kdec_kenc _
  have ht : pointCode.dec (ptOf (val A)).t = ptX (val A) * ptY (val A) := kdec_kenc _
  refine ⟨by rw [h1]; exact one_ne_zero, by rw [h1, hx, div_one]; rfl, by rw [h1, hy, div_one]; rfl, ?_,
    by rw [h1, hx, hy, ht, mul_one]⟩
  show onCurve (kdec 0) _ _
  rw [kdec_zero]
  exact pt_onCurve (val_ne A)

theorem unitOf_rep {V : Ecpt} {A : E} (h : pointCode.rep V A) : unitOf V = val A := by
  obtain ⟨-, hx, hy, -⟩ := h
  rw [unitOf, add_div, ← ptX_add_ptY (val A)]
  exact congrArg₂ (· + ·) hx hy

theorem repAffine_affineOf {a : F} {A : E} (h : a = val A) : pointCode.repAffine (affineOf a) A := by
  subst h
  exact ⟨kdec_kenc _, kdec_kenc _⟩

/-- The generator. -/
def g : E := elt 16 sixteen_ne

theorem g_order : addOrderOf g = edQ := by
  have : Fact edQ.Prime := ⟨edQ_prime⟩
  refine addOrderOf_eq_prime (val_injective ?_) fun h => ?_
  · rw [val_nsmul, val_zero, g, val_elt, show (16 : F) = 2 ^ 4 by norm_num, ← pow_mul]
    exact ZMod.pow_card_sub_one_eq_one two_ne
  · have h1 : (16 : F) = 1 := congrArg val h
    refine small_ne_zero 15 (by decide) (by decide) ?_
    push_cast
    linear_combination h1

/-- A point outside the subgroup of `G`. -/
def other : E := elt 2 two_ne

/-- Units of distinct small numbers are distinct points. -/
theorem val_ne_of_sub {A B : E} (n : Nat) (h0 : 0 < n) (h : n < edP) (e : val A = val B + n) : A ≠ B := by
  rintro rfl
  exact small_ne_zero n h0 h (by linear_combination -e)

theorem g_ne_other : g ≠ other :=
  val_ne_of_sub 14 (by decide) (by decide) (by rw [g, other, val_elt, val_elt]; norm_num)

theorem g_ne_zero : g ≠ 0 :=
  val_ne_of_sub 15 (by decide) (by decide) (by rw [g, val_elt, val_zero]; norm_num)

theorem other_ne_zero : other ≠ 0 :=
  val_ne_of_sub 1 (by decide) (by decide) (by rw [other, val_elt, val_zero]; norm_num)

/-- The generator's pair is on the curve. -/
theorem affineOf_onCurve : onCurve (kdec cfg.dCurve) (kdec (affineOf 16).x) (kdec (affineOf 16).y) := by
  show onCurve (kdec 0) (kdec (kenc _)) (kdec (kenc _))
  rw [kdec_zero, kdec_kenc, kdec_kenc]
  exact pt_onCurve sixteen_ne

/-- The pair `(1, 0)` is not. -/
theorem off_curve : ¬ onCurve (kdec cfg.dCurve) (kdec 1) (kdec 0) := by
  show ¬ onCurve (kdec 0) (kdec 1) (kdec 0)
  rw [kdec_zero, kdec_one]
  exact fun h => two_ne (by unfold onCurve at h; linear_combination -h)

/-- The offline generator's multiple, on this curve (log 8). -/
theorem rep_multiple (fuel : Nat) : ∀ (n : Nat) (U : Ecpt) (A : E), 1 ≤ n → n < 2 * 2 ^ fuel →
    pointCode.rep U A → pointCode.rep (multiple curve fuel n U) (n • A) := by
  induction fuel with
  | zero =>
    intro n U A h1 h2 h
    obtain rfl : n = 1 := by omega
    rw [multiple, one_smul]
    exact h
  | succ fuel ih =>
    intro n U A h1 h2 h
    rw [multiple]
    split
    · obtain rfl : n = 1 := by omega
      rw [one_smul]; exact h
    have hm := unitOf_rep (ih (n / 2) U A (by omega) (by omega) h)
    have hd : val ((n / 2 + n / 2) • A) =
        unitOf (multiple curve fuel (n / 2) U) * unitOf (multiple curve fuel (n / 2) U) := by
      rw [hm, add_smul, val_add]
    dsimp only
    split
    · refine rep_ptOf ?_
      rw [unitOf_rep h, show unitOf (curve.ecDbl _) = _ from unitOf_rep (rep_ptOf hd.symm), ← val_add,
        ← succ_nsmul]
      congr 2; omega
    · refine rep_ptOf (hd.symm.trans ?_)
      congr 2; omega

theorem gfix_unit : unitOf (gfix cfg) = val (2 ^ 252 • g) := by
  have hg : pointCode.rep (curve.ecExpand (affineOf 16).x (affineOf 16).y) g :=
    pointCode.ecExpand_rep (repAffine_affineOf rfl)
  have h := unitOf_rep (rep_multiple 256 (2 ^ 252) _ g Nat.one_le_two_pow (by norm_num) hg)
  rw [← h, unitOf, unitOf, gfix]
  show (kdec (kenc _) + kdec (kenc _)) / kdec 1 = _
  rw [kdec_kenc, kdec_kenc, kdec_one, div_one, ← add_div]
  rfl

/-- The collaborators meet the whole contract. -/
def laws : GroupLaws cfg F E where
  toPointCode := pointCode
  parameters :=
    { order_prime := edQ_prime
      order_odd := show edQ % 2 = 1 by decide
      order_low := show 2 ^ 251 < edQ by decide
      order_high := edQ_lt
      latency_pos := fun _ => Nat.one_pos }
  g := g
  phi := nsmulAddMonoidHom (2 ^ 126)
  card := by
    rw [Nat.card_congr Additive.toMul, Nat.card_eq_fintype_card, ZMod.card_units]
    exact Nat.add_sub_cancel _ 1
  generator_order := g_order
  generator_affine := repAffine_affineOf rfl
  ecAdd U V A B h h' := rep_ptOf (by rw [unitOf_rep h, unitOf_rep h', val_add])
  ecDbl U A h := rep_ptOf (by rw [unitOf_rep h, val_add])
  ecNeg U A h := rep_ptOf (by rw [unitOf_rep h, val_neg])
  ecCondNeg c U A h := by
    cases c
    · exact h
    · exact rep_ptOf (by rw [unitOf_rep h, if_pos rfl, val_neg])
  ecCondAdd c U V A B h h' := by
    cases c
    · exact h
    · exact rep_ptOf (by rw [unitOf_rep h, unitOf_rep h', if_pos rfl, val_add])
  ecCondAdd_fix c U A h := by
    cases c
    · exact h
    · exact rep_ptOf (by rw [unitOf_rep h, gfix_unit, if_pos rfl, val_add])
  encode_identity := rfl
  glsMorph V A h := by
    refine repAffine_affineOf ?_
    have e : kdec V.x + kdec V.y = val A := by
      rw [← ptX_add_ptY (val A)]; exact congrArg₂ (· + ·) h.1 h.2
    rw [e]
    exact (val_nsmul _ _).symm
  phi_lambda A _ := rfl
  decompose k h := by
    obtain ⟨h1, h2, h3, -⟩ := halves_value k (lt_trans h.2 edQ_lt) h.1
    show (if (halves k).sa then _ else _) + _ * (if (halves k).sb then _ else _) ≡ _ [ZMOD _]
    simp only [h1, h2, Bool.false_eq_true, if_false]
    rw [← h3]
    exact Int.ModEq.refl _
  decompose_bounds k h := (halves_value k (lt_trans h.2 edQ_lt) h.1).2.2.2
  negModQ k h := by
    show (BitVec.ofNat 256 (edQ - k.toNat)).toNat = edQ - k.toNat
    rw [BitVec.toNat_ofNat, Nat.mod_eq_of_lt (lt_of_le_of_lt (Nat.sub_le _ _) (lt_trans edQ_lt (by decide)))]

end Field

end Sys2Proof.Conic
end

