-- ==== Sys2Proof/Laws/State.lean ====
section
/-! SUPPORT. One lemma per field per named update of State, true by definition. -/

namespace Sys2Proof.Machine


/-! ### State.emitAll -/

@[simp] theorem State.emitAll_ka (s : State) (es : List Event) : (s.emitAll es).ka = s.ka := rfl
@[simp] theorem State.emitAll_kb (s : State) (es : List Event) : (s.emitAll es).kb = s.kb := rfl
@[simp] theorem State.emitAll_p (s : State) (es : List Event) : (s.emitAll es).p = s.p := rfl
@[simp] theorem State.emitAll_q (s : State) (es : List Event) : (s.emitAll es).q = s.q := rfl
@[simp] theorem State.emitAll_r (s : State) (es : List Event) : (s.emitAll es).r = s.r := rfl
@[simp] theorem State.emitAll_s0 (s : State) (es : List Event) : (s.emitAll es).s0 = s.s0 := rfl
@[simp] theorem State.emitAll_s1 (s : State) (es : List Event) : (s.emitAll es).s1 = s.s1 := rfl
@[simp] theorem State.emitAll_s2 (s : State) (es : List Event) : (s.emitAll es).s2 = s.s2 := rfl
@[simp] theorem State.emitAll_s3 (s : State) (es : List Event) : (s.emitAll es).s3 = s.s3 := rfl
@[simp] theorem State.emitAll_rb (s : State) (es : List Event) : (s.emitAll es).rb = s.rb := rfl
@[simp] theorem State.emitAll_b0 (s : State) (es : List Event) : (s.emitAll es).b0 = s.b0 := rfl
@[simp] theorem State.emitAll_b1 (s : State) (es : List Event) : (s.emitAll es).b1 = s.b1 := rfl
@[simp] theorem State.emitAll_b2 (s : State) (es : List Event) : (s.emitAll es).b2 = s.b2 := rfl
@[simp] theorem State.emitAll_b3 (s : State) (es : List Event) : (s.emitAll es).b3 = s.b3 := rfl
@[simp] theorem State.emitAll_x (s : State) (es : List Event) : (s.emitAll es).x = s.x := rfl
@[simp] theorem State.emitAll_ts (s : State) (es : List Event) : (s.emitAll es).ts = s.ts := rfl
@[simp] theorem State.emitAll_tt (s : State) (es : List Event) : (s.emitAll es).tt = s.tt := rfl
@[simp] theorem State.emitAll_tab (s : State) (es : List Event) : (s.emitAll es).tab = s.tab := rfl
@[simp] theorem State.emitAll_sg0 (s : State) (es : List Event) : (s.emitAll es).sg0 = s.sg0 := rfl
@[simp] theorem State.emitAll_sg1 (s : State) (es : List Event) : (s.emitAll es).sg1 = s.sg1 := rfl
@[simp] theorem State.emitAll_sg2 (s : State) (es : List Event) : (s.emitAll es).sg2 = s.sg2 := rfl
@[simp] theorem State.emitAll_sg3 (s : State) (es : List Event) : (s.emitAll es).sg3 = s.sg3 := rfl
@[simp] theorem State.emitAll_lsb (s : State) (es : List Event) : (s.emitAll es).lsb = s.lsb := rfl
@[simp] theorem State.emitAll_clsb (s : State) (es : List Event) : (s.emitAll es).clsb = s.clsb := rfl
@[simp] theorem State.emitAll_seq (s : State) (es : List Event) : (s.emitAll es).seq = s.seq := rfl
@[simp] theorem State.emitAll_opl (s : State) (es : List Event) : (s.emitAll es).opl = s.opl := rfl
@[simp] theorem State.emitAll_mcl (s : State) (es : List Event) : (s.emitAll es).mcl = s.mcl := rfl
@[simp] theorem State.emitAll_busy (s : State) (es : List Event) : (s.emitAll es).busy = s.busy := rfl
@[simp] theorem State.emitAll_done (s : State) (es : List Event) : (s.emitAll es).done = s.done := rfl
@[simp] theorem State.emitAll_errOp (s : State) (es : List Event) : (s.emitAll es).errOp = s.errOp := rfl
@[simp] theorem State.emitAll_errBusy (s : State) (es : List Event) : (s.emitAll es).errBusy = s.errBusy := rfl
@[simp] theorem State.emitAll_errAddr (s : State) (es : List Event) : (s.emitAll es).errAddr = s.errAddr := rfl
@[simp] theorem State.emitAll_turns (s : State) (es : List Event) : (s.emitAll es).turns = s.turns := rfl
@[simp] theorem State.emitAll_reads (s : State) (es : List Event) : (s.emitAll es).reads = s.reads := rfl
@[simp] theorem State.emitAll_trace (s : State) (es : List Event) : (s.emitAll es).trace = s.trace ++ es := rfl

/-! ### State.emit -/

@[simp] theorem State.emit_ka (s : State) (e : Event) : (s.emit e).ka = s.ka := rfl
@[simp] theorem State.emit_kb (s : State) (e : Event) : (s.emit e).kb = s.kb := rfl
@[simp] theorem State.emit_p (s : State) (e : Event) : (s.emit e).p = s.p := rfl
@[simp] theorem State.emit_q (s : State) (e : Event) : (s.emit e).q = s.q := rfl
@[simp] theorem State.emit_r (s : State) (e : Event) : (s.emit e).r = s.r := rfl
@[simp] theorem State.emit_s0 (s : State) (e : Event) : (s.emit e).s0 = s.s0 := rfl
@[simp] theorem State.emit_s1 (s : State) (e : Event) : (s.emit e).s1 = s.s1 := rfl
@[simp] theorem State.emit_s2 (s : State) (e : Event) : (s.emit e).s2 = s.s2 := rfl
@[simp] theorem State.emit_s3 (s : State) (e : Event) : (s.emit e).s3 = s.s3 := rfl
@[simp] theorem State.emit_rb (s : State) (e : Event) : (s.emit e).rb = s.rb := rfl
@[simp] theorem State.emit_b0 (s : State) (e : Event) : (s.emit e).b0 = s.b0 := rfl
@[simp] theorem State.emit_b1 (s : State) (e : Event) : (s.emit e).b1 = s.b1 := rfl
@[simp] theorem State.emit_b2 (s : State) (e : Event) : (s.emit e).b2 = s.b2 := rfl
@[simp] theorem State.emit_b3 (s : State) (e : Event) : (s.emit e).b3 = s.b3 := rfl
@[simp] theorem State.emit_x (s : State) (e : Event) : (s.emit e).x = s.x := rfl
@[simp] theorem State.emit_ts (s : State) (e : Event) : (s.emit e).ts = s.ts := rfl
@[simp] theorem State.emit_tt (s : State) (e : Event) : (s.emit e).tt = s.tt := rfl
@[simp] theorem State.emit_tab (s : State) (e : Event) : (s.emit e).tab = s.tab := rfl
@[simp] theorem State.emit_sg0 (s : State) (e : Event) : (s.emit e).sg0 = s.sg0 := rfl
@[simp] theorem State.emit_sg1 (s : State) (e : Event) : (s.emit e).sg1 = s.sg1 := rfl
@[simp] theorem State.emit_sg2 (s : State) (e : Event) : (s.emit e).sg2 = s.sg2 := rfl
@[simp] theorem State.emit_sg3 (s : State) (e : Event) : (s.emit e).sg3 = s.sg3 := rfl
@[simp] theorem State.emit_lsb (s : State) (e : Event) : (s.emit e).lsb = s.lsb := rfl
@[simp] theorem State.emit_clsb (s : State) (e : Event) : (s.emit e).clsb = s.clsb := rfl
@[simp] theorem State.emit_seq (s : State) (e : Event) : (s.emit e).seq = s.seq := rfl
@[simp] theorem State.emit_opl (s : State) (e : Event) : (s.emit e).opl = s.opl := rfl
@[simp] theorem State.emit_mcl (s : State) (e : Event) : (s.emit e).mcl = s.mcl := rfl
@[simp] theorem State.emit_busy (s : State) (e : Event) : (s.emit e).busy = s.busy := rfl
@[simp] theorem State.emit_done (s : State) (e : Event) : (s.emit e).done = s.done := rfl
@[simp] theorem State.emit_errOp (s : State) (e : Event) : (s.emit e).errOp = s.errOp := rfl
@[simp] theorem State.emit_errBusy (s : State) (e : Event) : (s.emit e).errBusy = s.errBusy := rfl
@[simp] theorem State.emit_errAddr (s : State) (e : Event) : (s.emit e).errAddr = s.errAddr := rfl
@[simp] theorem State.emit_turns (s : State) (e : Event) : (s.emit e).turns = s.turns := rfl
@[simp] theorem State.emit_reads (s : State) (e : Event) : (s.emit e).reads = s.reads := rfl
@[simp] theorem State.emit_trace (s : State) (e : Event) : (s.emit e).trace = s.trace ++ [e] := rfl

/-! ### State.call -/

@[simp] theorem State.call_ka (s : State) (f : Ext) (args : List Loc) : (s.call f args).ka = s.ka := rfl
@[simp] theorem State.call_kb (s : State) (f : Ext) (args : List Loc) : (s.call f args).kb = s.kb := rfl
@[simp] theorem State.call_p (s : State) (f : Ext) (args : List Loc) : (s.call f args).p = s.p := rfl
@[simp] theorem State.call_q (s : State) (f : Ext) (args : List Loc) : (s.call f args).q = s.q := rfl
@[simp] theorem State.call_r (s : State) (f : Ext) (args : List Loc) : (s.call f args).r = s.r := rfl
@[simp] theorem State.call_s0 (s : State) (f : Ext) (args : List Loc) : (s.call f args).s0 = s.s0 := rfl
@[simp] theorem State.call_s1 (s : State) (f : Ext) (args : List Loc) : (s.call f args).s1 = s.s1 := rfl
@[simp] theorem State.call_s2 (s : State) (f : Ext) (args : List Loc) : (s.call f args).s2 = s.s2 := rfl
@[simp] theorem State.call_s3 (s : State) (f : Ext) (args : List Loc) : (s.call f args).s3 = s.s3 := rfl
@[simp] theorem State.call_rb (s : State) (f : Ext) (args : List Loc) : (s.call f args).rb = s.rb := rfl
@[simp] theorem State.call_b0 (s : State) (f : Ext) (args : List Loc) : (s.call f args).b0 = s.b0 := rfl
@[simp] theorem State.call_b1 (s : State) (f : Ext) (args : List Loc) : (s.call f args).b1 = s.b1 := rfl
@[simp] theorem State.call_b2 (s : State) (f : Ext) (args : List Loc) : (s.call f args).b2 = s.b2 := rfl
@[simp] theorem State.call_b3 (s : State) (f : Ext) (args : List Loc) : (s.call f args).b3 = s.b3 := rfl
@[simp] theorem State.call_x (s : State) (f : Ext) (args : List Loc) : (s.call f args).x = s.x := rfl
@[simp] theorem State.call_ts (s : State) (f : Ext) (args : List Loc) : (s.call f args).ts = s.ts := rfl
@[simp] theorem State.call_tt (s : State) (f : Ext) (args : List Loc) : (s.call f args).tt = s.tt := rfl
@[simp] theorem State.call_tab (s : State) (f : Ext) (args : List Loc) : (s.call f args).tab = s.tab := rfl
@[simp] theorem State.call_sg0 (s : State) (f : Ext) (args : List Loc) : (s.call f args).sg0 = s.sg0 := rfl
@[simp] theorem State.call_sg1 (s : State) (f : Ext) (args : List Loc) : (s.call f args).sg1 = s.sg1 := rfl
@[simp] theorem State.call_sg2 (s : State) (f : Ext) (args : List Loc) : (s.call f args).sg2 = s.sg2 := rfl
@[simp] theorem State.call_sg3 (s : State) (f : Ext) (args : List Loc) : (s.call f args).sg3 = s.sg3 := rfl
@[simp] theorem State.call_lsb (s : State) (f : Ext) (args : List Loc) : (s.call f args).lsb = s.lsb := rfl
@[simp] theorem State.call_clsb (s : State) (f : Ext) (args : List Loc) : (s.call f args).clsb = s.clsb := rfl
@[simp] theorem State.call_seq (s : State) (f : Ext) (args : List Loc) : (s.call f args).seq = s.seq := rfl
@[simp] theorem State.call_opl (s : State) (f : Ext) (args : List Loc) : (s.call f args).opl = s.opl := rfl
@[simp] theorem State.call_mcl (s : State) (f : Ext) (args : List Loc) : (s.call f args).mcl = s.mcl := rfl
@[simp] theorem State.call_busy (s : State) (f : Ext) (args : List Loc) : (s.call f args).busy = s.busy := rfl
@[simp] theorem State.call_done (s : State) (f : Ext) (args : List Loc) : (s.call f args).done = s.done := rfl
@[simp] theorem State.call_errOp (s : State) (f : Ext) (args : List Loc) : (s.call f args).errOp = s.errOp := rfl
@[simp] theorem State.call_errBusy (s : State) (f : Ext) (args : List Loc) : (s.call f args).errBusy = s.errBusy := rfl
@[simp] theorem State.call_errAddr (s : State) (f : Ext) (args : List Loc) : (s.call f args).errAddr = s.errAddr := rfl
@[simp] theorem State.call_turns (s : State) (f : Ext) (args : List Loc) : (s.call f args).turns = s.turns := rfl
@[simp] theorem State.call_reads (s : State) (f : Ext) (args : List Loc) : (s.call f args).reads = s.reads := rfl
@[simp] theorem State.call_trace (s : State) (f : Ext) (args : List Loc) : (s.call f args).trace = s.trace ++ [.op f args] := rfl

/-! ### State.setPoint -/

@[simp] theorem State.setPoint_ka (s : State) (reg : PointReg) (v : Ecpt) : (s.setPoint reg v).ka = s.ka := by cases reg <;> rfl
@[simp] theorem State.setPoint_kb (s : State) (reg : PointReg) (v : Ecpt) : (s.setPoint reg v).kb = s.kb := by cases reg <;> rfl
@[simp] theorem State.setPoint_p (s : State) (reg : PointReg) (v : Ecpt) : (s.setPoint reg v).p = s.p := by cases reg <;> rfl
@[simp] theorem State.setPoint_q (s : State) (reg : PointReg) (v : Ecpt) : (s.setPoint reg v).q = s.q := by cases reg <;> rfl
@[simp] theorem State.setPoint_r (s : State) (reg : PointReg) (v : Ecpt) : (s.setPoint reg v).r = s.r := by cases reg <;> rfl
@[simp] theorem State.setPoint_s0 (s : State) (reg : PointReg) (v : Ecpt) : (s.setPoint reg v).s0 = s.s0 := by cases reg <;> rfl
@[simp] theorem State.setPoint_s1 (s : State) (reg : PointReg) (v : Ecpt) : (s.setPoint reg v).s1 = s.s1 := by cases reg <;> rfl
@[simp] theorem State.setPoint_s2 (s : State) (reg : PointReg) (v : Ecpt) : (s.setPoint reg v).s2 = s.s2 := by cases reg <;> rfl
@[simp] theorem State.setPoint_s3 (s : State) (reg : PointReg) (v : Ecpt) : (s.setPoint reg v).s3 = s.s3 := by cases reg <;> rfl
@[simp] theorem State.setPoint_rb (s : State) (reg : PointReg) (v : Ecpt) : (s.setPoint reg v).rb = s.rb := by cases reg <;> rfl
@[simp] theorem State.setPoint_tab (s : State) (reg : PointReg) (v : Ecpt) : (s.setPoint reg v).tab = s.tab := by cases reg <;> rfl
@[simp] theorem State.setPoint_sg0 (s : State) (reg : PointReg) (v : Ecpt) : (s.setPoint reg v).sg0 = s.sg0 := by cases reg <;> rfl
@[simp] theorem State.setPoint_sg1 (s : State) (reg : PointReg) (v : Ecpt) : (s.setPoint reg v).sg1 = s.sg1 := by cases reg <;> rfl
@[simp] theorem State.setPoint_sg2 (s : State) (reg : PointReg) (v : Ecpt) : (s.setPoint reg v).sg2 = s.sg2 := by cases reg <;> rfl
@[simp] theorem State.setPoint_sg3 (s : State) (reg : PointReg) (v : Ecpt) : (s.setPoint reg v).sg3 = s.sg3 := by cases reg <;> rfl
@[simp] theorem State.setPoint_lsb (s : State) (reg : PointReg) (v : Ecpt) : (s.setPoint reg v).lsb = s.lsb := by cases reg <;> rfl
@[simp] theorem State.setPoint_clsb (s : State) (reg : PointReg) (v : Ecpt) : (s.setPoint reg v).clsb = s.clsb := by cases reg <;> rfl
@[simp] theorem State.setPoint_seq (s : State) (reg : PointReg) (v : Ecpt) : (s.setPoint reg v).seq = s.seq := by cases reg <;> rfl
@[simp] theorem State.setPoint_opl (s : State) (reg : PointReg) (v : Ecpt) : (s.setPoint reg v).opl = s.opl := by cases reg <;> rfl
@[simp] theorem State.setPoint_mcl (s : State) (reg : PointReg) (v : Ecpt) : (s.setPoint reg v).mcl = s.mcl := by cases reg <;> rfl
@[simp] theorem State.setPoint_busy (s : State) (reg : PointReg) (v : Ecpt) : (s.setPoint reg v).busy = s.busy := by cases reg <;> rfl
@[simp] theorem State.setPoint_done (s : State) (reg : PointReg) (v : Ecpt) : (s.setPoint reg v).done = s.done := by cases reg <;> rfl
@[simp] theorem State.setPoint_errOp (s : State) (reg : PointReg) (v : Ecpt) : (s.setPoint reg v).errOp = s.errOp := by cases reg <;> rfl
@[simp] theorem State.setPoint_errBusy (s : State) (reg : PointReg) (v : Ecpt) : (s.setPoint reg v).errBusy = s.errBusy := by cases reg <;> rfl
@[simp] theorem State.setPoint_errAddr (s : State) (reg : PointReg) (v : Ecpt) : (s.setPoint reg v).errAddr = s.errAddr := by cases reg <;> rfl
@[simp] theorem State.setPoint_trace (s : State) (reg : PointReg) (v : Ecpt) : (s.setPoint reg v).trace = s.trace := by cases reg <;> rfl
@[simp] theorem State.setPoint_turns (s : State) (reg : PointReg) (v : Ecpt) : (s.setPoint reg v).turns = s.turns := by cases reg <;> rfl
@[simp] theorem State.setPoint_reads (s : State) (reg : PointReg) (v : Ecpt) : (s.setPoint reg v).reads = s.reads := by cases reg <;> rfl
@[simp] theorem State.point_setPoint_same (s : State) (reg : PointReg) (v : Ecpt) :
    (s.setPoint reg v).point reg = v := by cases reg <;> rfl
theorem State.point_setPoint_ne (s : State) (a b : PointReg) (v : Ecpt) (h : a ≠ b) :
    (s.setPoint a v).point b = s.point b := by cases a <;> cases b <;> first | rfl | exact absurd rfl h
@[simp] theorem State.setPoint_b0_b0 (s : State) (v : Ecpt) : (s.setPoint .b0 v).b0 = v := rfl
@[simp] theorem State.setPoint_b0_b1 (s : State) (v : Ecpt) : (s.setPoint .b0 v).b1 = s.b1 := rfl
@[simp] theorem State.setPoint_b0_b2 (s : State) (v : Ecpt) : (s.setPoint .b0 v).b2 = s.b2 := rfl
@[simp] theorem State.setPoint_b0_b3 (s : State) (v : Ecpt) : (s.setPoint .b0 v).b3 = s.b3 := rfl
@[simp] theorem State.setPoint_b0_x (s : State) (v : Ecpt) : (s.setPoint .b0 v).x = s.x := rfl
@[simp] theorem State.setPoint_b0_ts (s : State) (v : Ecpt) : (s.setPoint .b0 v).ts = s.ts := rfl
@[simp] theorem State.setPoint_b0_tt (s : State) (v : Ecpt) : (s.setPoint .b0 v).tt = s.tt := rfl
@[simp] theorem State.setPoint_b1_b0 (s : State) (v : Ecpt) : (s.setPoint .b1 v).b0 = s.b0 := rfl
@[simp] theorem State.setPoint_b1_b1 (s : State) (v : Ecpt) : (s.setPoint .b1 v).b1 = v := rfl
@[simp] theorem State.setPoint_b1_b2 (s : State) (v : Ecpt) : (s.setPoint .b1 v).b2 = s.b2 := rfl
@[simp] theorem State.setPoint_b1_b3 (s : State) (v : Ecpt) : (s.setPoint .b1 v).b3 = s.b3 := rfl
@[simp] theorem State.setPoint_b1_x (s : State) (v : Ecpt) : (s.setPoint .b1 v).x = s.x := rfl
@[simp] theorem State.setPoint_b1_ts (s : State) (v : Ecpt) : (s.setPoint .b1 v).ts = s.ts := rfl
@[simp] theorem State.setPoint_b1_tt (s : State) (v : Ecpt) : (s.setPoint .b1 v).tt = s.tt := rfl
@[simp] theorem State.setPoint_b2_b0 (s : State) (v : Ecpt) : (s.setPoint .b2 v).b0 = s.b0 := rfl
@[simp] theorem State.setPoint_b2_b1 (s : State) (v : Ecpt) : (s.setPoint .b2 v).b1 = s.b1 := rfl
@[simp] theorem State.setPoint_b2_b2 (s : State) (v : Ecpt) : (s.setPoint .b2 v).b2 = v := rfl
@[simp] theorem State.setPoint_b2_b3 (s : State) (v : Ecpt) : (s.setPoint .b2 v).b3 = s.b3 := rfl
@[simp] theorem State.setPoint_b2_x (s : State) (v : Ecpt) : (s.setPoint .b2 v).x = s.x := rfl
@[simp] theorem State.setPoint_b2_ts (s : State) (v : Ecpt) : (s.setPoint .b2 v).ts = s.ts := rfl
@[simp] theorem State.setPoint_b2_tt (s : State) (v : Ecpt) : (s.setPoint .b2 v).tt = s.tt := rfl
@[simp] theorem State.setPoint_b3_b0 (s : State) (v : Ecpt) : (s.setPoint .b3 v).b0 = s.b0 := rfl
@[simp] theorem State.setPoint_b3_b1 (s : State) (v : Ecpt) : (s.setPoint .b3 v).b1 = s.b1 := rfl
@[simp] theorem State.setPoint_b3_b2 (s : State) (v : Ecpt) : (s.setPoint .b3 v).b2 = s.b2 := rfl
@[simp] theorem State.setPoint_b3_b3 (s : State) (v : Ecpt) : (s.setPoint .b3 v).b3 = v := rfl
@[simp] theorem State.setPoint_b3_x (s : State) (v : Ecpt) : (s.setPoint .b3 v).x = s.x := rfl
@[simp] theorem State.setPoint_b3_ts (s : State) (v : Ecpt) : (s.setPoint .b3 v).ts = s.ts := rfl
@[simp] theorem State.setPoint_b3_tt (s : State) (v : Ecpt) : (s.setPoint .b3 v).tt = s.tt := rfl
@[simp] theorem State.setPoint_x_b0 (s : State) (v : Ecpt) : (s.setPoint .x v).b0 = s.b0 := rfl
@[simp] theorem State.setPoint_x_b1 (s : State) (v : Ecpt) : (s.setPoint .x v).b1 = s.b1 := rfl
@[simp] theorem State.setPoint_x_b2 (s : State) (v : Ecpt) : (s.setPoint .x v).b2 = s.b2 := rfl
@[simp] theorem State.setPoint_x_b3 (s : State) (v : Ecpt) : (s.setPoint .x v).b3 = s.b3 := rfl
@[simp] theorem State.setPoint_x_x (s : State) (v : Ecpt) : (s.setPoint .x v).x = v := rfl
@[simp] theorem State.setPoint_x_ts (s : State) (v : Ecpt) : (s.setPoint .x v).ts = s.ts := rfl
@[simp] theorem State.setPoint_x_tt (s : State) (v : Ecpt) : (s.setPoint .x v).tt = s.tt := rfl
@[simp] theorem State.setPoint_ts_b0 (s : State) (v : Ecpt) : (s.setPoint .ts v).b0 = s.b0 := rfl
@[simp] theorem State.setPoint_ts_b1 (s : State) (v : Ecpt) : (s.setPoint .ts v).b1 = s.b1 := rfl
@[simp] theorem State.setPoint_ts_b2 (s : State) (v : Ecpt) : (s.setPoint .ts v).b2 = s.b2 := rfl
@[simp] theorem State.setPoint_ts_b3 (s : State) (v : Ecpt) : (s.setPoint .ts v).b3 = s.b3 := rfl
@[simp] theorem State.setPoint_ts_x (s : State) (v : Ecpt) : (s.setPoint .ts v).x = s.x := rfl
@[simp] theorem State.setPoint_ts_ts (s : State) (v : Ecpt) : (s.setPoint .ts v).ts = v := rfl
@[simp] theorem State.setPoint_ts_tt (s : State) (v : Ecpt) : (s.setPoint .ts v).tt = s.tt := rfl
@[simp] theorem State.setPoint_tt_b0 (s : State) (v : Ecpt) : (s.setPoint .tt v).b0 = s.b0 := rfl
@[simp] theorem State.setPoint_tt_b1 (s : State) (v : Ecpt) : (s.setPoint .tt v).b1 = s.b1 := rfl
@[simp] theorem State.setPoint_tt_b2 (s : State) (v : Ecpt) : (s.setPoint .tt v).b2 = s.b2 := rfl
@[simp] theorem State.setPoint_tt_b3 (s : State) (v : Ecpt) : (s.setPoint .tt v).b3 = s.b3 := rfl
@[simp] theorem State.setPoint_tt_x (s : State) (v : Ecpt) : (s.setPoint .tt v).x = s.x := rfl
@[simp] theorem State.setPoint_tt_ts (s : State) (v : Ecpt) : (s.setPoint .tt v).ts = s.ts := rfl
@[simp] theorem State.setPoint_tt_tt (s : State) (v : Ecpt) : (s.setPoint .tt v).tt = v := rfl
@[simp] theorem State.point_b0 (s : State) : s.point .b0 = s.b0 := rfl
@[simp] theorem State.point_b1 (s : State) : s.point .b1 = s.b1 := rfl
@[simp] theorem State.point_b2 (s : State) : s.point .b2 = s.b2 := rfl
@[simp] theorem State.point_b3 (s : State) : s.point .b3 = s.b3 := rfl
@[simp] theorem State.point_x (s : State) : s.point .x = s.x := rfl
@[simp] theorem State.point_ts (s : State) : s.point .ts = s.ts := rfl
@[simp] theorem State.point_tt (s : State) : s.point .tt = s.tt := rfl

/-! ### tabWrite -/

@[simp] theorem tabWrite_ka (i : Nat) (v : Ecpt) (s : State) : (tabWrite i v s).ka = s.ka := rfl
@[simp] theorem tabWrite_kb (i : Nat) (v : Ecpt) (s : State) : (tabWrite i v s).kb = s.kb := rfl
@[simp] theorem tabWrite_p (i : Nat) (v : Ecpt) (s : State) : (tabWrite i v s).p = s.p := rfl
@[simp] theorem tabWrite_q (i : Nat) (v : Ecpt) (s : State) : (tabWrite i v s).q = s.q := rfl
@[simp] theorem tabWrite_r (i : Nat) (v : Ecpt) (s : State) : (tabWrite i v s).r = s.r := rfl
@[simp] theorem tabWrite_s0 (i : Nat) (v : Ecpt) (s : State) : (tabWrite i v s).s0 = s.s0 := rfl
@[simp] theorem tabWrite_s1 (i : Nat) (v : Ecpt) (s : State) : (tabWrite i v s).s1 = s.s1 := rfl
@[simp] theorem tabWrite_s2 (i : Nat) (v : Ecpt) (s : State) : (tabWrite i v s).s2 = s.s2 := rfl
@[simp] theorem tabWrite_s3 (i : Nat) (v : Ecpt) (s : State) : (tabWrite i v s).s3 = s.s3 := rfl
@[simp] theorem tabWrite_rb (i : Nat) (v : Ecpt) (s : State) : (tabWrite i v s).rb = s.rb := rfl
@[simp] theorem tabWrite_b0 (i : Nat) (v : Ecpt) (s : State) : (tabWrite i v s).b0 = s.b0 := rfl
@[simp] theorem tabWrite_b1 (i : Nat) (v : Ecpt) (s : State) : (tabWrite i v s).b1 = s.b1 := rfl
@[simp] theorem tabWrite_b2 (i : Nat) (v : Ecpt) (s : State) : (tabWrite i v s).b2 = s.b2 := rfl
@[simp] theorem tabWrite_b3 (i : Nat) (v : Ecpt) (s : State) : (tabWrite i v s).b3 = s.b3 := rfl
@[simp] theorem tabWrite_x (i : Nat) (v : Ecpt) (s : State) : (tabWrite i v s).x = s.x := rfl
@[simp] theorem tabWrite_ts (i : Nat) (v : Ecpt) (s : State) : (tabWrite i v s).ts = s.ts := rfl
@[simp] theorem tabWrite_tt (i : Nat) (v : Ecpt) (s : State) : (tabWrite i v s).tt = s.tt := rfl
@[simp] theorem tabWrite_sg0 (i : Nat) (v : Ecpt) (s : State) : (tabWrite i v s).sg0 = s.sg0 := rfl
@[simp] theorem tabWrite_sg1 (i : Nat) (v : Ecpt) (s : State) : (tabWrite i v s).sg1 = s.sg1 := rfl
@[simp] theorem tabWrite_sg2 (i : Nat) (v : Ecpt) (s : State) : (tabWrite i v s).sg2 = s.sg2 := rfl
@[simp] theorem tabWrite_sg3 (i : Nat) (v : Ecpt) (s : State) : (tabWrite i v s).sg3 = s.sg3 := rfl
@[simp] theorem tabWrite_lsb (i : Nat) (v : Ecpt) (s : State) : (tabWrite i v s).lsb = s.lsb := rfl
@[simp] theorem tabWrite_clsb (i : Nat) (v : Ecpt) (s : State) : (tabWrite i v s).clsb = s.clsb := rfl
@[simp] theorem tabWrite_seq (i : Nat) (v : Ecpt) (s : State) : (tabWrite i v s).seq = s.seq := rfl
@[simp] theorem tabWrite_opl (i : Nat) (v : Ecpt) (s : State) : (tabWrite i v s).opl = s.opl := rfl
@[simp] theorem tabWrite_mcl (i : Nat) (v : Ecpt) (s : State) : (tabWrite i v s).mcl = s.mcl := rfl
@[simp] theorem tabWrite_busy (i : Nat) (v : Ecpt) (s : State) : (tabWrite i v s).busy = s.busy := rfl
@[simp] theorem tabWrite_done (i : Nat) (v : Ecpt) (s : State) : (tabWrite i v s).done = s.done := rfl
@[simp] theorem tabWrite_errOp (i : Nat) (v : Ecpt) (s : State) : (tabWrite i v s).errOp = s.errOp := rfl
@[simp] theorem tabWrite_errBusy (i : Nat) (v : Ecpt) (s : State) : (tabWrite i v s).errBusy = s.errBusy := rfl
@[simp] theorem tabWrite_errAddr (i : Nat) (v : Ecpt) (s : State) : (tabWrite i v s).errAddr = s.errAddr := rfl
@[simp] theorem tabWrite_turns (i : Nat) (v : Ecpt) (s : State) : (tabWrite i v s).turns = s.turns := rfl
@[simp] theorem tabWrite_reads (i : Nat) (v : Ecpt) (s : State) : (tabWrite i v s).reads = s.reads := rfl
@[simp] theorem tabWrite_tab (i : Nat) (v : Ecpt) (s : State) : (tabWrite i v s).tab = s.tab.setIfInBounds i v := rfl
@[simp] theorem tabWrite_trace (i : Nat) (v : Ecpt) (s : State) : (tabWrite i v s).trace = s.trace ++ [.wr i] := rfl

/-! ### accept -/

@[simp] theorem accept_ka (i : Instr) (s : State) : (accept i s).ka = s.ka := rfl
@[simp] theorem accept_kb (i : Instr) (s : State) : (accept i s).kb = s.kb := rfl
@[simp] theorem accept_p (i : Instr) (s : State) : (accept i s).p = s.p := rfl
@[simp] theorem accept_q (i : Instr) (s : State) : (accept i s).q = s.q := rfl
@[simp] theorem accept_s0 (i : Instr) (s : State) : (accept i s).s0 = s.s0 := rfl
@[simp] theorem accept_s1 (i : Instr) (s : State) : (accept i s).s1 = s.s1 := rfl
@[simp] theorem accept_s2 (i : Instr) (s : State) : (accept i s).s2 = s.s2 := rfl
@[simp] theorem accept_s3 (i : Instr) (s : State) : (accept i s).s3 = s.s3 := rfl
@[simp] theorem accept_rb (i : Instr) (s : State) : (accept i s).rb = s.rb := rfl
@[simp] theorem accept_b0 (i : Instr) (s : State) : (accept i s).b0 = s.b0 := rfl
@[simp] theorem accept_b1 (i : Instr) (s : State) : (accept i s).b1 = s.b1 := rfl
@[simp] theorem accept_b2 (i : Instr) (s : State) : (accept i s).b2 = s.b2 := rfl
@[simp] theorem accept_b3 (i : Instr) (s : State) : (accept i s).b3 = s.b3 := rfl
@[simp] theorem accept_x (i : Instr) (s : State) : (accept i s).x = s.x := rfl
@[simp] theorem accept_ts (i : Instr) (s : State) : (accept i s).ts = s.ts := rfl
@[simp] theorem accept_tt (i : Instr) (s : State) : (accept i s).tt = s.tt := rfl
@[simp] theorem accept_tab (i : Instr) (s : State) : (accept i s).tab = s.tab := rfl
@[simp] theorem accept_sg0 (i : Instr) (s : State) : (accept i s).sg0 = s.sg0 := rfl
@[simp] theorem accept_sg1 (i : Instr) (s : State) : (accept i s).sg1 = s.sg1 := rfl
@[simp] theorem accept_sg2 (i : Instr) (s : State) : (accept i s).sg2 = s.sg2 := rfl
@[simp] theorem accept_sg3 (i : Instr) (s : State) : (accept i s).sg3 = s.sg3 := rfl
@[simp] theorem accept_lsb (i : Instr) (s : State) : (accept i s).lsb = s.lsb := rfl
@[simp] theorem accept_clsb (i : Instr) (s : State) : (accept i s).clsb = s.clsb := rfl
@[simp] theorem accept_errOp (i : Instr) (s : State) : (accept i s).errOp = s.errOp := rfl
@[simp] theorem accept_errBusy (i : Instr) (s : State) : (accept i s).errBusy = s.errBusy := rfl
@[simp] theorem accept_errAddr (i : Instr) (s : State) : (accept i s).errAddr = s.errAddr := rfl
@[simp] theorem accept_turns (i : Instr) (s : State) : (accept i s).turns = s.turns := rfl
@[simp] theorem accept_reads (i : Instr) (s : State) : (accept i s).reads = s.reads := rfl
@[simp] theorem accept_opl (i : Instr) (s : State) : (accept i s).opl = i.opcode := rfl
@[simp] theorem accept_mcl (i : Instr) (s : State) : (accept i s).mcl = i.cofactor := rfl
@[simp] theorem accept_busy (i : Instr) (s : State) : (accept i s).busy = true := rfl
@[simp] theorem accept_done (i : Instr) (s : State) : (accept i s).done = false := rfl
@[simp] theorem accept_seq (i : Instr) (s : State) : (accept i s).seq = { phase := .setup, ii := 0, sub := 0 } := rfl
@[simp] theorem accept_r (i : Instr) (s : State) : (accept i s).r = if i.isDriver then .zero else s.r := rfl
@[simp] theorem accept_trace (i : Instr) (s : State) : (accept i s).trace = [] := rfl

/-! ### complete -/

@[simp] theorem complete_ka (s : State) : (complete s).ka = s.ka := rfl
@[simp] theorem complete_kb (s : State) : (complete s).kb = s.kb := rfl
@[simp] theorem complete_p (s : State) : (complete s).p = s.p := rfl
@[simp] theorem complete_q (s : State) : (complete s).q = s.q := rfl
@[simp] theorem complete_r (s : State) : (complete s).r = s.r := rfl
@[simp] theorem complete_s0 (s : State) : (complete s).s0 = s.s0 := rfl
@[simp] theorem complete_s1 (s : State) : (complete s).s1 = s.s1 := rfl
@[simp] theorem complete_s2 (s : State) : (complete s).s2 = s.s2 := rfl
@[simp] theorem complete_s3 (s : State) : (complete s).s3 = s.s3 := rfl
@[simp] theorem complete_rb (s : State) : (complete s).rb = s.rb := rfl
@[simp] theorem complete_b0 (s : State) : (complete s).b0 = s.b0 := rfl
@[simp] theorem complete_b1 (s : State) : (complete s).b1 = s.b1 := rfl
@[simp] theorem complete_b2 (s : State) : (complete s).b2 = s.b2 := rfl
@[simp] theorem complete_b3 (s : State) : (complete s).b3 = s.b3 := rfl
@[simp] theorem complete_x (s : State) : (complete s).x = s.x := rfl
@[simp] theorem complete_ts (s : State) : (complete s).ts = s.ts := rfl
@[simp] theorem complete_tt (s : State) : (complete s).tt = s.tt := rfl
@[simp] theorem complete_tab (s : State) : (complete s).tab = s.tab := rfl
@[simp] theorem complete_sg0 (s : State) : (complete s).sg0 = s.sg0 := rfl
@[simp] theorem complete_sg1 (s : State) : (complete s).sg1 = s.sg1 := rfl
@[simp] theorem complete_sg2 (s : State) : (complete s).sg2 = s.sg2 := rfl
@[simp] theorem complete_sg3 (s : State) : (complete s).sg3 = s.sg3 := rfl
@[simp] theorem complete_lsb (s : State) : (complete s).lsb = s.lsb := rfl
@[simp] theorem complete_clsb (s : State) : (complete s).clsb = s.clsb := rfl
@[simp] theorem complete_opl (s : State) : (complete s).opl = s.opl := rfl
@[simp] theorem complete_mcl (s : State) : (complete s).mcl = s.mcl := rfl
@[simp] theorem complete_errOp (s : State) : (complete s).errOp = s.errOp := rfl
@[simp] theorem complete_errBusy (s : State) : (complete s).errBusy = s.errBusy := rfl
@[simp] theorem complete_errAddr (s : State) : (complete s).errAddr = s.errAddr := rfl
@[simp] theorem complete_trace (s : State) : (complete s).trace = s.trace := rfl
@[simp] theorem complete_turns (s : State) : (complete s).turns = s.turns := rfl
@[simp] theorem complete_reads (s : State) : (complete s).reads = s.reads := rfl
@[simp] theorem complete_busy (s : State) : (complete s).busy = false := rfl
@[simp] theorem complete_done (s : State) : (complete s).done = true := rfl
@[simp] theorem complete_seq (s : State) : (complete s).seq = { phase := .done, ii := s.seq.ii, sub := 0 } := rfl

/-! ### raiseErrOp -/

@[simp] theorem raiseErrOp_ka (s : State) : (raiseErrOp s).ka = s.ka := rfl
@[simp] theorem raiseErrOp_kb (s : State) : (raiseErrOp s).kb = s.kb := rfl
@[simp] theorem raiseErrOp_p (s : State) : (raiseErrOp s).p = s.p := rfl
@[simp] theorem raiseErrOp_q (s : State) : (raiseErrOp s).q = s.q := rfl
@[simp] theorem raiseErrOp_r (s : State) : (raiseErrOp s).r = s.r := rfl
@[simp] theorem raiseErrOp_s0 (s : State) : (raiseErrOp s).s0 = s.s0 := rfl
@[simp] theorem raiseErrOp_s1 (s : State) : (raiseErrOp s).s1 = s.s1 := rfl
@[simp] theorem raiseErrOp_s2 (s : State) : (raiseErrOp s).s2 = s.s2 := rfl
@[simp] theorem raiseErrOp_s3 (s : State) : (raiseErrOp s).s3 = s.s3 := rfl
@[simp] theorem raiseErrOp_rb (s : State) : (raiseErrOp s).rb = s.rb := rfl
@[simp] theorem raiseErrOp_b0 (s : State) : (raiseErrOp s).b0 = s.b0 := rfl
@[simp] theorem raiseErrOp_b1 (s : State) : (raiseErrOp s).b1 = s.b1 := rfl
@[simp] theorem raiseErrOp_b2 (s : State) : (raiseErrOp s).b2 = s.b2 := rfl
@[simp] theorem raiseErrOp_b3 (s : State) : (raiseErrOp s).b3 = s.b3 := rfl
@[simp] theorem raiseErrOp_x (s : State) : (raiseErrOp s).x = s.x := rfl
@[simp] theorem raiseErrOp_ts (s : State) : (raiseErrOp s).ts = s.ts := rfl
@[simp] theorem raiseErrOp_tt (s : State) : (raiseErrOp s).tt = s.tt := rfl
@[simp] theorem raiseErrOp_tab (s : State) : (raiseErrOp s).tab = s.tab := rfl
@[simp] theorem raiseErrOp_sg0 (s : State) : (raiseErrOp s).sg0 = s.sg0 := rfl
@[simp] theorem raiseErrOp_sg1 (s : State) : (raiseErrOp s).sg1 = s.sg1 := rfl
@[simp] theorem raiseErrOp_sg2 (s : State) : (raiseErrOp s).sg2 = s.sg2 := rfl
@[simp] theorem raiseErrOp_sg3 (s : State) : (raiseErrOp s).sg3 = s.sg3 := rfl
@[simp] theorem raiseErrOp_lsb (s : State) : (raiseErrOp s).lsb = s.lsb := rfl
@[simp] theorem raiseErrOp_clsb (s : State) : (raiseErrOp s).clsb = s.clsb := rfl
@[simp] theorem raiseErrOp_seq (s : State) : (raiseErrOp s).seq = s.seq := rfl
@[simp] theorem raiseErrOp_opl (s : State) : (raiseErrOp s).opl = s.opl := rfl
@[simp] theorem raiseErrOp_mcl (s : State) : (raiseErrOp s).mcl = s.mcl := rfl
@[simp] theorem raiseErrOp_busy (s : State) : (raiseErrOp s).busy = s.busy := rfl
@[simp] theorem raiseErrOp_done (s : State) : (raiseErrOp s).done = s.done := rfl
@[simp] theorem raiseErrOp_errBusy (s : State) : (raiseErrOp s).errBusy = s.errBusy := rfl
@[simp] theorem raiseErrOp_errAddr (s : State) : (raiseErrOp s).errAddr = s.errAddr := rfl
@[simp] theorem raiseErrOp_trace (s : State) : (raiseErrOp s).trace = s.trace := rfl
@[simp] theorem raiseErrOp_turns (s : State) : (raiseErrOp s).turns = s.turns := rfl
@[simp] theorem raiseErrOp_reads (s : State) : (raiseErrOp s).reads = s.reads := rfl
@[simp] theorem raiseErrOp_errOp (s : State) : (raiseErrOp s).errOp = true := rfl

/-! ### raiseErrBusy -/

@[simp] theorem raiseErrBusy_ka (s : State) : (raiseErrBusy s).ka = s.ka := rfl
@[simp] theorem raiseErrBusy_kb (s : State) : (raiseErrBusy s).kb = s.kb := rfl
@[simp] theorem raiseErrBusy_p (s : State) : (raiseErrBusy s).p = s.p := rfl
@[simp] theorem raiseErrBusy_q (s : State) : (raiseErrBusy s).q = s.q := rfl
@[simp] theorem raiseErrBusy_r (s : State) : (raiseErrBusy s).r = s.r := rfl
@[simp] theorem raiseErrBusy_s0 (s : State) : (raiseErrBusy s).s0 = s.s0 := rfl
@[simp] theorem raiseErrBusy_s1 (s : State) : (raiseErrBusy s).s1 = s.s1 := rfl
@[simp] theorem raiseErrBusy_s2 (s : State) : (raiseErrBusy s).s2 = s.s2 := rfl
@[simp] theorem raiseErrBusy_s3 (s : State) : (raiseErrBusy s).s3 = s.s3 := rfl
@[simp] theorem raiseErrBusy_rb (s : State) : (raiseErrBusy s).rb = s.rb := rfl
@[simp] theorem raiseErrBusy_b0 (s : State) : (raiseErrBusy s).b0 = s.b0 := rfl
@[simp] theorem raiseErrBusy_b1 (s : State) : (raiseErrBusy s).b1 = s.b1 := rfl
@[simp] theorem raiseErrBusy_b2 (s : State) : (raiseErrBusy s).b2 = s.b2 := rfl
@[simp] theorem raiseErrBusy_b3 (s : State) : (raiseErrBusy s).b3 = s.b3 := rfl
@[simp] theorem raiseErrBusy_x (s : State) : (raiseErrBusy s).x = s.x := rfl
@[simp] theorem raiseErrBusy_ts (s : State) : (raiseErrBusy s).ts = s.ts := rfl
@[simp] theorem raiseErrBusy_tt (s : State) : (raiseErrBusy s).tt = s.tt := rfl
@[simp] theorem raiseErrBusy_tab (s : State) : (raiseErrBusy s).tab = s.tab := rfl
@[simp] theorem raiseErrBusy_sg0 (s : State) : (raiseErrBusy s).sg0 = s.sg0 := rfl
@[simp] theorem raiseErrBusy_sg1 (s : State) : (raiseErrBusy s).sg1 = s.sg1 := rfl
@[simp] theorem raiseErrBusy_sg2 (s : State) : (raiseErrBusy s).sg2 = s.sg2 := rfl
@[simp] theorem raiseErrBusy_sg3 (s : State) : (raiseErrBusy s).sg3 = s.sg3 := rfl
@[simp] theorem raiseErrBusy_lsb (s : State) : (raiseErrBusy s).lsb = s.lsb := rfl
@[simp] theorem raiseErrBusy_clsb (s : State) : (raiseErrBusy s).clsb = s.clsb := rfl
@[simp] theorem raiseErrBusy_seq (s : State) : (raiseErrBusy s).seq = s.seq := rfl
@[simp] theorem raiseErrBusy_opl (s : State) : (raiseErrBusy s).opl = s.opl := rfl
@[simp] theorem raiseErrBusy_mcl (s : State) : (raiseErrBusy s).mcl = s.mcl := rfl
@[simp] theorem raiseErrBusy_busy (s : State) : (raiseErrBusy s).busy = s.busy := rfl
@[simp] theorem raiseErrBusy_done (s : State) : (raiseErrBusy s).done = s.done := rfl
@[simp] theorem raiseErrBusy_errOp (s : State) : (raiseErrBusy s).errOp = s.errOp := rfl
@[simp] theorem raiseErrBusy_errAddr (s : State) : (raiseErrBusy s).errAddr = s.errAddr := rfl
@[simp] theorem raiseErrBusy_trace (s : State) : (raiseErrBusy s).trace = s.trace := rfl
@[simp] theorem raiseErrBusy_turns (s : State) : (raiseErrBusy s).turns = s.turns := rfl
@[simp] theorem raiseErrBusy_reads (s : State) : (raiseErrBusy s).reads = s.reads := rfl
@[simp] theorem raiseErrBusy_errBusy (s : State) : (raiseErrBusy s).errBusy = true := rfl

/-! ### raiseErrAddr -/

@[simp] theorem raiseErrAddr_ka (s : State) : (raiseErrAddr s).ka = s.ka := rfl
@[simp] theorem raiseErrAddr_kb (s : State) : (raiseErrAddr s).kb = s.kb := rfl
@[simp] theorem raiseErrAddr_p (s : State) : (raiseErrAddr s).p = s.p := rfl
@[simp] theorem raiseErrAddr_q (s : State) : (raiseErrAddr s).q = s.q := rfl
@[simp] theorem raiseErrAddr_r (s : State) : (raiseErrAddr s).r = s.r := rfl
@[simp] theorem raiseErrAddr_s0 (s : State) : (raiseErrAddr s).s0 = s.s0 := rfl
@[simp] theorem raiseErrAddr_s1 (s : State) : (raiseErrAddr s).s1 = s.s1 := rfl
@[simp] theorem raiseErrAddr_s2 (s : State) : (raiseErrAddr s).s2 = s.s2 := rfl
@[simp] theorem raiseErrAddr_s3 (s : State) : (raiseErrAddr s).s3 = s.s3 := rfl
@[simp] theorem raiseErrAddr_rb (s : State) : (raiseErrAddr s).rb = s.rb := rfl
@[simp] theorem raiseErrAddr_b0 (s : State) : (raiseErrAddr s).b0 = s.b0 := rfl
@[simp] theorem raiseErrAddr_b1 (s : State) : (raiseErrAddr s).b1 = s.b1 := rfl
@[simp] theorem raiseErrAddr_b2 (s : State) : (raiseErrAddr s).b2 = s.b2 := rfl
@[simp] theorem raiseErrAddr_b3 (s : State) : (raiseErrAddr s).b3 = s.b3 := rfl
@[simp] theorem raiseErrAddr_x (s : State) : (raiseErrAddr s).x = s.x := rfl
@[simp] theorem raiseErrAddr_ts (s : State) : (raiseErrAddr s).ts = s.ts := rfl
@[simp] theorem raiseErrAddr_tt (s : State) : (raiseErrAddr s).tt = s.tt := rfl
@[simp] theorem raiseErrAddr_tab (s : State) : (raiseErrAddr s).tab = s.tab := rfl
@[simp] theorem raiseErrAddr_sg0 (s : State) : (raiseErrAddr s).sg0 = s.sg0 := rfl
@[simp] theorem raiseErrAddr_sg1 (s : State) : (raiseErrAddr s).sg1 = s.sg1 := rfl
@[simp] theorem raiseErrAddr_sg2 (s : State) : (raiseErrAddr s).sg2 = s.sg2 := rfl
@[simp] theorem raiseErrAddr_sg3 (s : State) : (raiseErrAddr s).sg3 = s.sg3 := rfl
@[simp] theorem raiseErrAddr_lsb (s : State) : (raiseErrAddr s).lsb = s.lsb := rfl
@[simp] theorem raiseErrAddr_clsb (s : State) : (raiseErrAddr s).clsb = s.clsb := rfl
@[simp] theorem raiseErrAddr_seq (s : State) : (raiseErrAddr s).seq = s.seq := rfl
@[simp] theorem raiseErrAddr_opl (s : State) : (raiseErrAddr s).opl = s.opl := rfl
@[simp] theorem raiseErrAddr_mcl (s : State) : (raiseErrAddr s).mcl = s.mcl := rfl
@[simp] theorem raiseErrAddr_busy (s : State) : (raiseErrAddr s).busy = s.busy := rfl
@[simp] theorem raiseErrAddr_done (s : State) : (raiseErrAddr s).done = s.done := rfl
@[simp] theorem raiseErrAddr_errOp (s : State) : (raiseErrAddr s).errOp = s.errOp := rfl
@[simp] theorem raiseErrAddr_errBusy (s : State) : (raiseErrAddr s).errBusy = s.errBusy := rfl
@[simp] theorem raiseErrAddr_trace (s : State) : (raiseErrAddr s).trace = s.trace := rfl
@[simp] theorem raiseErrAddr_turns (s : State) : (raiseErrAddr s).turns = s.turns := rfl
@[simp] theorem raiseErrAddr_reads (s : State) : (raiseErrAddr s).reads = s.reads := rfl
@[simp] theorem raiseErrAddr_errAddr (s : State) : (raiseErrAddr s).errAddr = true := rfl

/-! ### clearErrors -/

@[simp] theorem clearErrors_ka (v : Limb) (s : State) : (clearErrors v s).ka = s.ka := rfl
@[simp] theorem clearErrors_kb (v : Limb) (s : State) : (clearErrors v s).kb = s.kb := rfl
@[simp] theorem clearErrors_p (v : Limb) (s : State) : (clearErrors v s).p = s.p := rfl
@[simp] theorem clearErrors_q (v : Limb) (s : State) : (clearErrors v s).q = s.q := rfl
@[simp] theorem clearErrors_r (v : Limb) (s : State) : (clearErrors v s).r = s.r := rfl
@[simp] theorem clearErrors_s0 (v : Limb) (s : State) : (clearErrors v s).s0 = s.s0 := rfl
@[simp] theorem clearErrors_s1 (v : Limb) (s : State) : (clearErrors v s).s1 = s.s1 := rfl
@[simp] theorem clearErrors_s2 (v : Limb) (s : State) : (clearErrors v s).s2 = s.s2 := rfl
@[simp] theorem clearErrors_s3 (v : Limb) (s : State) : (clearErrors v s).s3 = s.s3 := rfl
@[simp] theorem clearErrors_rb (v : Limb) (s : State) : (clearErrors v s).rb = s.rb := rfl
@[simp] theorem clearErrors_b0 (v : Limb) (s : State) : (clearErrors v s).b0 = s.b0 := rfl
@[simp] theorem clearErrors_b1 (v : Limb) (s : State) : (clearErrors v s).b1 = s.b1 := rfl
@[simp] theorem clearErrors_b2 (v : Limb) (s : State) : (clearErrors v s).b2 = s.b2 := rfl
@[simp] theorem clearErrors_b3 (v : Limb) (s : State) : (clearErrors v s).b3 = s.b3 := rfl
@[simp] theorem clearErrors_x (v : Limb) (s : State) : (clearErrors v s).x = s.x := rfl
@[simp] theorem clearErrors_ts (v : Limb) (s : State) : (clearErrors v s).ts = s.ts := rfl
@[simp] theorem clearErrors_tt (v : Limb) (s : State) : (clearErrors v s).tt = s.tt := rfl
@[simp] theorem clearErrors_tab (v : Limb) (s : State) : (clearErrors v s).tab = s.tab := rfl
@[simp] theorem clearErrors_sg0 (v : Limb) (s : State) : (clearErrors v s).sg0 = s.sg0 := rfl
@[simp] theorem clearErrors_sg1 (v : Limb) (s : State) : (clearErrors v s).sg1 = s.sg1 := rfl
@[simp] theorem clearErrors_sg2 (v : Limb) (s : State) : (clearErrors v s).sg2 = s.sg2 := rfl
@[simp] theorem clearErrors_sg3 (v : Limb) (s : State) : (clearErrors v s).sg3 = s.sg3 := rfl
@[simp] theorem clearErrors_lsb (v : Limb) (s : State) : (clearErrors v s).lsb = s.lsb := rfl
@[simp] theorem clearErrors_clsb (v : Limb) (s : State) : (clearErrors v s).clsb = s.clsb := rfl
@[simp] theorem clearErrors_seq (v : Limb) (s : State) : (clearErrors v s).seq = s.seq := rfl
@[simp] theorem clearErrors_opl (v : Limb) (s : State) : (clearErrors v s).opl = s.opl := rfl
@[simp] theorem clearErrors_mcl (v : Limb) (s : State) : (clearErrors v s).mcl = s.mcl := rfl
@[simp] theorem clearErrors_busy (v : Limb) (s : State) : (clearErrors v s).busy = s.busy := rfl
@[simp] theorem clearErrors_done (v : Limb) (s : State) : (clearErrors v s).done = s.done := rfl
@[simp] theorem clearErrors_trace (v : Limb) (s : State) : (clearErrors v s).trace = s.trace := rfl
@[simp] theorem clearErrors_turns (v : Limb) (s : State) : (clearErrors v s).turns = s.turns := rfl
@[simp] theorem clearErrors_reads (v : Limb) (s : State) : (clearErrors v s).reads = s.reads := rfl
@[simp] theorem clearErrors_errOp (v : Limb) (s : State) : (clearErrors v s).errOp = (s.errOp && !v.getLsbD 8) := rfl
@[simp] theorem clearErrors_errBusy (v : Limb) (s : State) : (clearErrors v s).errBusy = (s.errBusy && !v.getLsbD 9) := rfl
@[simp] theorem clearErrors_errAddr (v : Limb) (s : State) : (clearErrors v s).errAddr = (s.errAddr && !v.getLsbD 10) := rfl

/-! ### State.setOperandLimb -/

@[simp] theorem State.setOperandLimb_r (s : State) (o : OperandReg) (j : Nat) (v : Limb) : (s.setOperandLimb o j v).r = s.r := by cases o <;> rfl
@[simp] theorem State.setOperandLimb_s0 (s : State) (o : OperandReg) (j : Nat) (v : Limb) : (s.setOperandLimb o j v).s0 = s.s0 := by cases o <;> rfl
@[simp] theorem State.setOperandLimb_s1 (s : State) (o : OperandReg) (j : Nat) (v : Limb) : (s.setOperandLimb o j v).s1 = s.s1 := by cases o <;> rfl
@[simp] theorem State.setOperandLimb_s2 (s : State) (o : OperandReg) (j : Nat) (v : Limb) : (s.setOperandLimb o j v).s2 = s.s2 := by cases o <;> rfl
@[simp] theorem State.setOperandLimb_s3 (s : State) (o : OperandReg) (j : Nat) (v : Limb) : (s.setOperandLimb o j v).s3 = s.s3 := by cases o <;> rfl
@[simp] theorem State.setOperandLimb_rb (s : State) (o : OperandReg) (j : Nat) (v : Limb) : (s.setOperandLimb o j v).rb = s.rb := by cases o <;> rfl
@[simp] theorem State.setOperandLimb_b0 (s : State) (o : OperandReg) (j : Nat) (v : Limb) : (s.setOperandLimb o j v).b0 = s.b0 := by cases o <;> rfl
@[simp] theorem State.setOperandLimb_b1 (s : State) (o : OperandReg) (j : Nat) (v : Limb) : (s.setOperandLimb o j v).b1 = s.b1 := by cases o <;> rfl
@[simp] theorem State.setOperandLimb_b2 (s : State) (o : OperandReg) (j : Nat) (v : Limb) : (s.setOperandLimb o j v).b2 = s.b2 := by cases o <;> rfl
@[simp] theorem State.setOperandLimb_b3 (s : State) (o : OperandReg) (j : Nat) (v : Limb) : (s.setOperandLimb o j v).b3 = s.b3 := by cases o <;> rfl
@[simp] theorem State.setOperandLimb_x (s : State) (o : OperandReg) (j : Nat) (v : Limb) : (s.setOperandLimb o j v).x = s.x := by cases o <;> rfl
@[simp] theorem State.setOperandLimb_ts (s : State) (o : OperandReg) (j : Nat) (v : Limb) : (s.setOperandLimb o j v).ts = s.ts := by cases o <;> rfl
@[simp] theorem State.setOperandLimb_tt (s : State) (o : OperandReg) (j : Nat) (v : Limb) : (s.setOperandLimb o j v).tt = s.tt := by cases o <;> rfl
@[simp] theorem State.setOperandLimb_tab (s : State) (o : OperandReg) (j : Nat) (v : Limb) : (s.setOperandLimb o j v).tab = s.tab := by cases o <;> rfl
@[simp] theorem State.setOperandLimb_sg0 (s : State) (o : OperandReg) (j : Nat) (v : Limb) : (s.setOperandLimb o j v).sg0 = s.sg0 := by cases o <;> rfl
@[simp] theorem State.setOperandLimb_sg1 (s : State) (o : OperandReg) (j : Nat) (v : Limb) : (s.setOperandLimb o j v).sg1 = s.sg1 := by cases o <;> rfl
@[simp] theorem State.setOperandLimb_sg2 (s : State) (o : OperandReg) (j : Nat) (v : Limb) : (s.setOperandLimb o j v).sg2 = s.sg2 := by cases o <;> rfl
@[simp] theorem State.setOperandLimb_sg3 (s : State) (o : OperandReg) (j : Nat) (v : Limb) : (s.setOperandLimb o j v).sg3 = s.sg3 := by cases o <;> rfl
@[simp] theorem State.setOperandLimb_lsb (s : State) (o : OperandReg) (j : Nat) (v : Limb) : (s.setOperandLimb o j v).lsb = s.lsb := by cases o <;> rfl
@[simp] theorem State.setOperandLimb_clsb (s : State) (o : OperandReg) (j : Nat) (v : Limb) : (s.setOperandLimb o j v).clsb = s.clsb := by cases o <;> rfl
@[simp] theorem State.setOperandLimb_seq (s : State) (o : OperandReg) (j : Nat) (v : Limb) : (s.setOperandLimb o j v).seq = s.seq := by cases o <;> rfl
@[simp] theorem State.setOperandLimb_opl (s : State) (o : OperandReg) (j : Nat) (v : Limb) : (s.setOperandLimb o j v).opl = s.opl := by cases o <;> rfl
@[simp] theorem State.setOperandLimb_mcl (s : State) (o : OperandReg) (j : Nat) (v : Limb) : (s.setOperandLimb o j v).mcl = s.mcl := by cases o <;> rfl
@[simp] theorem State.setOperandLimb_busy (s : State) (o : OperandReg) (j : Nat) (v : Limb) : (s.setOperandLimb o j v).busy = s.busy := by cases o <;> rfl
@[simp] theorem State.setOperandLimb_done (s : State) (o : OperandReg) (j : Nat) (v : Limb) : (s.setOperandLimb o j v).done = s.done := by cases o <;> rfl
@[simp] theorem State.setOperandLimb_errOp (s : State) (o : OperandReg) (j : Nat) (v : Limb) : (s.setOperandLimb o j v).errOp = s.errOp := by cases o <;> rfl
@[simp] theorem State.setOperandLimb_errBusy (s : State) (o : OperandReg) (j : Nat) (v : Limb) : (s.setOperandLimb o j v).errBusy = s.errBusy := by cases o <;> rfl
@[simp] theorem State.setOperandLimb_errAddr (s : State) (o : OperandReg) (j : Nat) (v : Limb) : (s.setOperandLimb o j v).errAddr = s.errAddr := by cases o <;> rfl
@[simp] theorem State.setOperandLimb_trace (s : State) (o : OperandReg) (j : Nat) (v : Limb) : (s.setOperandLimb o j v).trace = s.trace := by cases o <;> rfl
@[simp] theorem State.setOperandLimb_turns (s : State) (o : OperandReg) (j : Nat) (v : Limb) : (s.setOperandLimb o j v).turns = s.turns := by cases o <;> rfl
@[simp] theorem State.setOperandLimb_reads (s : State) (o : OperandReg) (j : Nat) (v : Limb) : (s.setOperandLimb o j v).reads = s.reads := by cases o <;> rfl

/-! ### receive -/

@[simp] theorem receive_ka (cfg : Cfg) (wa : WordAddr) (s : State) : (receive cfg wa s).ka = s.ka := rfl
@[simp] theorem receive_kb (cfg : Cfg) (wa : WordAddr) (s : State) : (receive cfg wa s).kb = s.kb := rfl
@[simp] theorem receive_p (cfg : Cfg) (wa : WordAddr) (s : State) : (receive cfg wa s).p = s.p := rfl
@[simp] theorem receive_q (cfg : Cfg) (wa : WordAddr) (s : State) : (receive cfg wa s).q = s.q := rfl
@[simp] theorem receive_r (cfg : Cfg) (wa : WordAddr) (s : State) : (receive cfg wa s).r = s.r := rfl
@[simp] theorem receive_s0 (cfg : Cfg) (wa : WordAddr) (s : State) : (receive cfg wa s).s0 = s.s0 := rfl
@[simp] theorem receive_s1 (cfg : Cfg) (wa : WordAddr) (s : State) : (receive cfg wa s).s1 = s.s1 := rfl
@[simp] theorem receive_s2 (cfg : Cfg) (wa : WordAddr) (s : State) : (receive cfg wa s).s2 = s.s2 := rfl
@[simp] theorem receive_s3 (cfg : Cfg) (wa : WordAddr) (s : State) : (receive cfg wa s).s3 = s.s3 := rfl
@[simp] theorem receive_rb (cfg : Cfg) (wa : WordAddr) (s : State) : (receive cfg wa s).rb = s.rb := rfl
@[simp] theorem receive_b0 (cfg : Cfg) (wa : WordAddr) (s : State) : (receive cfg wa s).b0 = s.b0 := rfl
@[simp] theorem receive_b1 (cfg : Cfg) (wa : WordAddr) (s : State) : (receive cfg wa s).b1 = s.b1 := rfl
@[simp] theorem receive_b2 (cfg : Cfg) (wa : WordAddr) (s : State) : (receive cfg wa s).b2 = s.b2 := rfl
@[simp] theorem receive_b3 (cfg : Cfg) (wa : WordAddr) (s : State) : (receive cfg wa s).b3 = s.b3 := rfl
@[simp] theorem receive_x (cfg : Cfg) (wa : WordAddr) (s : State) : (receive cfg wa s).x = s.x := rfl
@[simp] theorem receive_ts (cfg : Cfg) (wa : WordAddr) (s : State) : (receive cfg wa s).ts = s.ts := rfl
@[simp] theorem receive_tt (cfg : Cfg) (wa : WordAddr) (s : State) : (receive cfg wa s).tt = s.tt := rfl
@[simp] theorem receive_tab (cfg : Cfg) (wa : WordAddr) (s : State) : (receive cfg wa s).tab = s.tab := rfl
@[simp] theorem receive_sg0 (cfg : Cfg) (wa : WordAddr) (s : State) : (receive cfg wa s).sg0 = s.sg0 := rfl
@[simp] theorem receive_sg1 (cfg : Cfg) (wa : WordAddr) (s : State) : (receive cfg wa s).sg1 = s.sg1 := rfl
@[simp] theorem receive_sg2 (cfg : Cfg) (wa : WordAddr) (s : State) : (receive cfg wa s).sg2 = s.sg2 := rfl
@[simp] theorem receive_sg3 (cfg : Cfg) (wa : WordAddr) (s : State) : (receive cfg wa s).sg3 = s.sg3 := rfl
@[simp] theorem receive_lsb (cfg : Cfg) (wa : WordAddr) (s : State) : (receive cfg wa s).lsb = s.lsb := rfl
@[simp] theorem receive_clsb (cfg : Cfg) (wa : WordAddr) (s : State) : (receive cfg wa s).clsb = s.clsb := rfl
@[simp] theorem receive_seq (cfg : Cfg) (wa : WordAddr) (s : State) : (receive cfg wa s).seq = s.seq := rfl
@[simp] theorem receive_opl (cfg : Cfg) (wa : WordAddr) (s : State) : (receive cfg wa s).opl = s.opl := rfl
@[simp] theorem receive_mcl (cfg : Cfg) (wa : WordAddr) (s : State) : (receive cfg wa s).mcl = s.mcl := rfl
@[simp] theorem receive_busy (cfg : Cfg) (wa : WordAddr) (s : State) : (receive cfg wa s).busy = s.busy := rfl
@[simp] theorem receive_done (cfg : Cfg) (wa : WordAddr) (s : State) : (receive cfg wa s).done = s.done := rfl
@[simp] theorem receive_errOp (cfg : Cfg) (wa : WordAddr) (s : State) : (receive cfg wa s).errOp = s.errOp := rfl
@[simp] theorem receive_errBusy (cfg : Cfg) (wa : WordAddr) (s : State) : (receive cfg wa s).errBusy = s.errBusy := rfl
@[simp] theorem receive_errAddr (cfg : Cfg) (wa : WordAddr) (s : State) : (receive cfg wa s).errAddr = s.errAddr := rfl
@[simp] theorem receive_trace (cfg : Cfg) (wa : WordAddr) (s : State) : (receive cfg wa s).trace = s.trace := rfl
@[simp] theorem receive_turns (cfg : Cfg) (wa : WordAddr) (s : State) : (receive cfg wa s).turns = s.turns := rfl
@[simp] theorem receive_reads (cfg : Cfg) (wa : WordAddr) (s : State) : (receive cfg wa s).reads = s.reads ++ [hostRead cfg wa s] := rfl

end Sys2Proof.Machine
end

