-- ==== Sys2Proof/Laws/Ops.lean ====
section
/-! SUPPORT. One lemma for each shared operation of Machine/Ops.lean and Machine/Operands.lean. -/

namespace Sys2Proof.Machine

/-! ### Limbs -/

theorem limb_getLsbD (v : U256) (j i : Nat) :
    (limb v j).getLsbD i = (decide (i < 64) && v.getLsbD (64 * j + i)) := by
  simp [limb, BitVec.getLsbD_extractLsb']

theorem ofLimbs_getLsbD (l0 l1 l2 l3 : Limb) (i : Nat) :
    (ofLimbs l0 l1 l2 l3).getLsbD i =
      if i < 64 then l0.getLsbD i else if i < 128 then l1.getLsbD (i - 64)
      else if i < 192 then l2.getLsbD (i - 128) else l3.getLsbD (i - 192) := by
  simp only [ofLimbs, BitVec.getLsbD_append]
  by_cases h0 : i < 64
  · simp [h0]
  by_cases h1 : i < 128
  · simp [h0, h1, show i - 64 < 64 by omega]
  by_cases h2 : i < 192
  · simp [h0, h1, h2, show ¬ i - 64 < 64 by omega, show i - 128 < 64 by omega,
      show i - 64 - 64 = i - 128 by omega]
  · simp [h0, h1, h2, show ¬ i - 64 < 64 by omega, show ¬ i - 128 < 64 by omega,
      show i - 64 - 64 = i - 128 by omega, show i - 128 - 64 = i - 192 by omega]

theorem limb_ofLimbs_zero (l0 l1 l2 l3 : Limb) : limb (ofLimbs l0 l1 l2 l3) 0 = l0 := by
  ext i hi
  simp only [← BitVec.getLsbD_eq_getElem, limb_getLsbD, ofLimbs_getLsbD]
  simp [hi]

theorem limb_ofLimbs_one (l0 l1 l2 l3 : Limb) : limb (ofLimbs l0 l1 l2 l3) 1 = l1 := by
  ext i hi
  simp only [← BitVec.getLsbD_eq_getElem, limb_getLsbD, ofLimbs_getLsbD]
  simp [hi]
  intro h; omega

theorem limb_ofLimbs_two (l0 l1 l2 l3 : Limb) : limb (ofLimbs l0 l1 l2 l3) 2 = l2 := by
  ext i hi
  simp only [← BitVec.getLsbD_eq_getElem, limb_getLsbD, ofLimbs_getLsbD]
  simp [hi, show ¬ 64 * 2 + i < 64 by omega, show ¬ 64 * 2 + i < 128 by omega,
    show 64 * 2 + i < 192 by omega]

theorem limb_ofLimbs_three (l0 l1 l2 l3 : Limb) : limb (ofLimbs l0 l1 l2 l3) 3 = l3 := by
  ext i hi
  simp only [← BitVec.getLsbD_eq_getElem, limb_getLsbD, ofLimbs_getLsbD]
  simp [hi, show ¬ 64 * 3 + i < 64 by omega, show ¬ 64 * 3 + i < 128 by omega,
    show ¬ 64 * 3 + i < 192 by omega]

/-- A value is its four limbs (20_memory.md R60). -/
theorem ofLimbs_limb (v : U256) : ofLimbs (limb v 0) (limb v 1) (limb v 2) (limb v 3) = v := by
  ext i hi
  simp only [← BitVec.getLsbD_eq_getElem, limb_getLsbD, ofLimbs_getLsbD]
  split
  · simp [*]
  · split
    · rw [show 64 * 1 + (i - 64) = i by omega]; simp; omega
    · split
      · rw [show 64 * 2 + (i - 128) = i by omega]; simp; omega
      · rw [show 64 * 3 + (i - 192) = i by omega]; simp; omega

/-- Reading a limb of a value with one limb replaced. -/
theorem limb_setLimb (v : U256) (j k : Nat) (l : Limb) (hk : k < 4) :
    limb (setLimb v j l) k = if j = k then l else limb v k := by
  have : k = 0 ∨ k = 1 ∨ k = 2 ∨ k = 3 := by omega
  rcases this with rfl | rfl | rfl | rfl
  · exact limb_ofLimbs_zero ..
  · exact limb_ofLimbs_one ..
  · exact limb_ofLimbs_two ..
  · exact limb_ofLimbs_three ..

/-! ### What the accesses do to the state -/

@[simp] theorem tabRead_fst (i : Nat) (s : State) : (tabRead i s).1 = s.slot i := rfl

@[simp] theorem tabRead_snd (i : Nat) (s : State) : (tabRead i s).2 = s.emit (.rd .tab i) := rfl

@[simp] theorem romRead_fst (cfg : Cfg) (m : AffineRom) (i : Nat) (s : State) :
    (romRead cfg m i s).1 = romEntry cfg m i := rfl

@[simp] theorem romRead_snd (cfg : Cfg) (m : AffineRom) (i : Nat) (s : State) :
    (romRead cfg m i s).2 = s.emit (.rd m.name i) := rfl

@[simp] theorem gfixRead_fst (cfg : Cfg) (s : State) : (gfixRead cfg s).1 = gfix cfg := rfl

@[simp] theorem gfixRead_snd (cfg : Cfg) (s : State) : (gfixRead cfg s).2 = s.emit (.rd .gfix 0) :=
  rfl

@[simp] theorem emitAll_emitAll (s : State) (es fs : List Event) :
    (s.emitAll es).emitAll fs = s.emitAll (es ++ fs) := by
  simp [State.emitAll, List.append_assoc]

@[simp] theorem emitAll_nil (s : State) : s.emitAll [] = s := by simp [State.emitAll]

/-- A loop whose every iteration emits one event leaves the state with all of them, in order. -/
theorem foldl_emit_snd {α : Type} (f : α → State → Nat → α) (ev : Nat → Event) (l : List Nat)
    (a : α) (s : State) :
    (l.foldl (fun acc i => (f acc.1 acc.2 i, acc.2.emit (ev i))) (a, s)).2 =
      s.emitAll (l.map ev) := by
  induction l generalizing a s with
  | nil => simp
  | cons i l ih =>
    rw [List.foldl_cons, ih]
    simp [State.emit]

/-- A scan of `TAB` changes the trace alone, and reads every slot in increasing order whatever the
wanted one is (43_table_selectors.md R132). -/
theorem scanTab_snd (k : Nat) (s : State) :
    (scanTab k s).2 = s.emitAll ((List.range 8).map (Event.rd .tab)) :=
  foldl_emit_snd (fun a s i => xorMaskEcpt a (s.slot i) (genMask i k)) (Event.rd .tab) _ _ _

/-- A scan of a ROM changes the trace alone (R132). -/
theorem scanRom_snd (cfg : Cfg) (m : AffineRom) (k : Nat) (s : State) :
    (scanRom cfg m k s).2 = s.emitAll ((List.range m.slots).map (Event.rd m.name)) :=
  foldl_emit_snd (fun a _ i => xorMaskAffine a (romEntry cfg m i) (genMask i k)) (Event.rd m.name)
    _ _ _

/-- The events of the fetch of `SEL2` (R133, R141). -/
def fetchTabEvents (cfg : Cfg) (ct : Bool) (k : Nat) : List Event :=
  if ct then (List.range 8).map (Event.rd .tab) else (vtSlots cfg .tab k).map (Event.rd .tab)

theorem fetchTab_snd (cfg : Cfg) (ct : Bool) (k : Nat) (s : State) :
    (fetchTab cfg ct k s).2 = s.emitAll (fetchTabEvents cfg ct k) := by
  cases ct
  · rfl
  · simp [fetchTab, fetchTabEvents, scanTab_snd]

theorem fetchRomVt_snd (cfg : Cfg) (m : AffineRom) (k : Nat) (s : State) :
    (fetchRomVt cfg m k s).2 = s.emitAll ((vtSlots cfg m.name k).map (Event.rd m.name)) := rfl

/-- A variable-time selection's slots contain the wanted one (R141). -/
theorem mem_vtSlots (cfg : Cfg) (m : TableName) (k : Nat) : k ∈ vtSlots cfg m k := by
  unfold vtSlots
  by_cases h : k ∈ cfg.vtTrace m k <;> simp [h]

@[simp] theorem affineToExt_fst (c : Curve) (e : Affine) (s : State) :
    (affineToExt c e s).1 = ⟨e.x, e.y, c.feMul e.x e.y, c.feSetSmallk 1⟩ := rfl

theorem affineToExt_snd (c : Curve) (e : Affine) (s : State) :
    (affineToExt c e s).2 = s.emitAll [.op .feMul [.entry], .op .feSetSmallk []] := by
  simp [affineToExt, State.call, State.emit]

@[simp] theorem condNegEntry_fst (c : Curve) (n : Bool) (e : Ecpt) (s : State) :
    (condNegEntry c n e s).1 = c.ecCondNeg n e := rfl

theorem condNegEntry_snd (c : Curve) (n : Bool) (e : Ecpt) (s : State) :
    (condNegEntry c n e s).2 = s.emitAll [.op .ecCondNeg [.entry]] := rfl

/-! ### Indices are inside their tables (60_exceptions.md R240) -/

theorem and_one_cases (x : U128) : x &&& 1#128 = 0#128 ∨ x &&& 1#128 = 1#128 := by
  have h : (x &&& 1#128).toNat = x.toNat % 2 := by
    rw [BitVec.toNat_and]; exact Nat.and_one_is_mod _
  rcases Nat.mod_two_eq_zero_or_one x.toNat with h' | h'
  · left; apply BitVec.eq_of_toNat_eq; rw [h, h']; rfl
  · right; apply BitVec.eq_of_toNat_eq; rw [h, h']; rfl

theorem sel2Index_lt (a b : U128) (index : Nat) : sel2Index a b index < 8 := by
  unfold sel2Index
  have h3 : ((b >>> index) &&& 3#128).toNat < 2 ^ 3 := by
    rw [BitVec.toNat_and]
    exact lt_of_le_of_lt Nat.and_le_right (by decide)
  dsimp only
  rw [BitVec.toNat_or]
  refine Nat.or_lt_two_pow (n := 3) ?_ h3
  rcases and_one_cases ((a >>> index) ^^^ ((a >>> index) >>> 1)) with h | h <;> rw [h] <;> decide

theorem sel4Index_lt (b c d : U128) (index : Nat) : sel4Index b c d index < 8 := by
  unfold sel4Index
  rcases and_one_cases (b >>> index) with h | h <;> rcases and_one_cases (c >>> index) with h' | h' <;>
    rcases and_one_cases (d >>> index) with h'' | h'' <;> rw [h, h', h''] <;> decide

theorem combIndex_lt (rb : U256) (d e rows vp ep : Nat) : combIndex rb d e rows vp ep < 2 ^ rows := by
  unfold combIndex
  induction rows with
  | zero => simp
  | succ n ih =>
    rw [List.range_succ, List.foldl_append]
    have hn : 2 ^ n < 2 ^ (n + 1) := Nat.pow_lt_pow_right (by omega) (by omega)
    refine Nat.or_lt_two_pow (lt_trans ih hn) ?_
    cases combBit rb d e (n + 1) vp ep
    · simp
    · simpa [Nat.shiftLeft_eq] using hn

end Sys2Proof.Machine
end

