-- ==== Sys2Proof/Laws/Micro.lean ====
section
/-! SUPPORT. What every micro-operation leaves unchanged: the sequencer, the status, the host's
operands (but `KA` for the mask step), the boundary; and that it only appends to the trace. -/

namespace Sys2Proof.Machine

/-- The control side, the operands no micro-operation writes, and the boundary are equal, and the
trace has only grown. -/
structure Keeps (s t : State) : Prop where
  kb : t.kb = s.kb
  p : t.p = s.p
  q : t.q = s.q
  seq : t.seq = s.seq
  opl : t.opl = s.opl
  mcl : t.mcl = s.mcl
  busy : t.busy = s.busy
  done : t.done = s.done
  errOp : t.errOp = s.errOp
  errBusy : t.errBusy = s.errBusy
  errAddr : t.errAddr = s.errAddr
  turns : t.turns = s.turns
  reads : t.reads = s.reads
  trace : s.trace <+: t.trace

/-- `Keeps`, and `KA` and `R` too: every micro-operation but the mask step and `AFFINE`. -/
structure KeepsAll (s t : State) : Prop extends Keeps s t where
  ka : t.ka = s.ka
  r : t.r = s.r

theorem Keeps.refl (s : State) : Keeps s s := by constructor <;> rfl

theorem KeepsAll.refl (s : State) : KeepsAll s s := ⟨Keeps.refl s, rfl, rfl⟩

theorem Keeps.trans {s t u : State} (h : Keeps s t) (g : Keeps t u) : Keeps s u where
  kb := g.kb.trans h.kb
  p := g.p.trans h.p
  q := g.q.trans h.q
  seq := g.seq.trans h.seq
  opl := g.opl.trans h.opl
  mcl := g.mcl.trans h.mcl
  busy := g.busy.trans h.busy
  done := g.done.trans h.done
  errOp := g.errOp.trans h.errOp
  errBusy := g.errBusy.trans h.errBusy
  errAddr := g.errAddr.trans h.errAddr
  turns := g.turns.trans h.turns
  reads := g.reads.trans h.reads
  trace := h.trace.trans g.trace

theorem KeepsAll.trans {s t u : State} (h : KeepsAll s t) (g : KeepsAll t u) : KeepsAll s u :=
  ⟨h.toKeeps.trans g.toKeeps, g.ka.trans h.ka, g.r.trans h.r⟩

theorem keepsAll_emitAll (s : State) (es : List Event) : KeepsAll s (s.emitAll es) := by
  refine ⟨?_, rfl, rfl⟩
  constructor <;> first | rfl | exact ⟨es, rfl⟩

theorem keepsAll_emit (s : State) (e : Event) : KeepsAll s (s.emit e) := keepsAll_emitAll s [e]

theorem keepsAll_call (s : State) (f : Ext) (args : List Loc) : KeepsAll s (s.call f args) :=
  keepsAll_emit s _

theorem keepsAll_setPoint (s : State) (r : PointReg) (v : Ecpt) : KeepsAll s (s.setPoint r v) := by
  cases r <;> exact ⟨by constructor <;> rfl, rfl, rfl⟩

theorem keepsAll_tabWrite (i : Nat) (v : Ecpt) (s : State) : KeepsAll s (tabWrite i v s) := by
  refine ⟨?_, rfl, rfl⟩
  constructor <;> first | rfl | exact ⟨[.wr i], rfl⟩

theorem keepsAll_scanTab (k : Nat) (s : State) : KeepsAll s (scanTab k s).2 := by
  rw [scanTab_snd]; exact keepsAll_emitAll ..

theorem keepsAll_scanRom (cfg : Cfg) (m : AffineRom) (k : Nat) (s : State) :
    KeepsAll s (scanRom cfg m k s).2 := by
  rw [scanRom_snd]; exact keepsAll_emitAll ..

theorem keepsAll_fetchTab (cfg : Cfg) (ct : Bool) (k : Nat) (s : State) :
    KeepsAll s (fetchTab cfg ct k s).2 := by
  rw [fetchTab_snd]; exact keepsAll_emitAll ..

theorem keepsAll_fetchRomVt (cfg : Cfg) (m : AffineRom) (k : Nat) (s : State) :
    KeepsAll s (fetchRomVt cfg m k s).2 := keepsAll_emitAll ..

theorem keepsAll_condNegEntry (c : Curve) (n : Bool) (e : Ecpt) (s : State) :
    KeepsAll s (condNegEntry c n e s).2 := keepsAll_call ..

theorem keepsAll_affineToExt (c : Curve) (e : Affine) (s : State) :
    KeepsAll s (affineToExt c e s).2 := (keepsAll_call ..).trans (keepsAll_call ..)

theorem keepsAll_sel2 (cfg : Cfg) (index : Nat) (ct : Bool) (dest : PointReg) (s : State) :
    KeepsAll s (sel2 cfg index ct dest s) :=
  ((keepsAll_fetchTab cfg ct _ s).trans (keepsAll_condNegEntry ..)).trans (keepsAll_setPoint ..)

theorem keepsAll_sel4 (cfg : Cfg) (index : Nat) (dest : PointReg) (s : State) :
    KeepsAll s (sel4 cfg index dest s) :=
  ((keepsAll_scanTab _ s).trans (keepsAll_condNegEntry ..)).trans (keepsAll_setPoint ..)

theorem keepsAll_selcomb72Half (cfg : Cfg) (m : AffineRom) (vp ep : Nat) (dest : PointReg)
    (s : State) : KeepsAll s (selcomb72Half cfg m vp ep dest s) :=
  (((keepsAll_scanRom cfg m _ s).trans (keepsAll_affineToExt ..)).trans
    (keepsAll_condNegEntry ..)).trans (keepsAll_setPoint ..)

theorem keepsAll_selcomb72 (cfg : Cfg) (ep : Nat) (s : State) : KeepsAll s (selcomb72 cfg ep s) :=
  (keepsAll_selcomb72Half ..).trans (keepsAll_selcomb72Half ..)

theorem keepsAll_selcomb81 (cfg : Cfg) (ep : Nat) (s : State) : KeepsAll s (selcomb81 cfg ep s) := by
  unfold selcomb81
  dsimp only
  generalize h : fetchRomVt cfg .sgt (combIndex81 s.rb ep) s = e
  have he : KeepsAll s e.2 := h ▸ keepsAll_fetchRomVt cfg .sgt _ s
  exact ((he.trans (keepsAll_affineToExt ..)).trans (keepsAll_condNegEntry ..)).trans
    (keepsAll_setPoint ..)

theorem keepsAll_copyBase (dst : Nat) (s : State) : KeepsAll s (copyBase dst s) :=
  (keepsAll_call ..).trans (keepsAll_tabWrite ..)

theorem keepsAll_addPointsToSlot (c : Curve) (dst : Nat) (u v : PointReg) (s : State) :
    KeepsAll s (addPointsToSlot c dst u v s) := (keepsAll_call ..).trans (keepsAll_tabWrite ..)

theorem keepsAll_addSlotToSlot (c : Curve) (dst src : Nat) (v : PointReg) (s : State) :
    KeepsAll s (addSlotToSlot c dst src v s) :=
  ((keepsAll_emit ..).trans (keepsAll_call ..)).trans (keepsAll_tabWrite ..)

theorem keepsAll_negateB1 (c : Curve) (s : State) : KeepsAll s (negateB1 c s) :=
  (keepsAll_setPoint s .ts (c.ecNeg s.b1)).trans (keepsAll_call ..)

theorem keepsAll_doubleB0 (c : Curve) (s : State) : KeepsAll s (doubleB0 c s) :=
  (keepsAll_setPoint s .tt (c.ecDbl s.b0)).trans (keepsAll_call ..)

theorem keepsAll_gentab2 (c : Curve) (s : State) : KeepsAll s (gentab2 c s) :=
  (keepsAll_negateB1 ..).trans <| (keepsAll_copyBase ..).trans <|
    (keepsAll_addPointsToSlot ..).trans <| (keepsAll_addPointsToSlot ..).trans <|
    (keepsAll_addSlotToSlot ..).trans <| (keepsAll_doubleB0 ..).trans <|
    (keepsAll_addPointsToSlot ..).trans <| (keepsAll_addSlotToSlot ..).trans <|
    (keepsAll_addSlotToSlot ..).trans (keepsAll_addSlotToSlot ..)

theorem keepsAll_gentab4 (c : Curve) (s : State) : KeepsAll s (gentab4 c s) :=
  (keepsAll_copyBase ..).trans <| (keepsAll_addSlotToSlot ..).trans <|
    (keepsAll_addSlotToSlot ..).trans <| (keepsAll_addSlotToSlot ..).trans <|
    (keepsAll_addSlotToSlot ..).trans <| (keepsAll_addSlotToSlot ..).trans <|
    (keepsAll_addSlotToSlot ..).trans (keepsAll_addSlotToSlot ..)

theorem keepsAll_decomp (c : Curve) (k : ScalarReg) (pair : Pair) (s : State) :
    KeepsAll s (decomp c k pair s) := by
  refine (keepsAll_call s .glsDecompose [.scalar k]).trans ?_
  cases pair <;> exact ⟨by constructor <;> rfl, rfl, rfl⟩

theorem keepsAll_prep (c : Curve) (a : OperandPoint) (pair : Pair) (s : State) :
    KeepsAll s (prep c a pair s) :=
  (keepsAll_setPoint ..).trans <| (keepsAll_call ..).trans <| (keepsAll_call ..).trans <|
    (keepsAll_setPoint ..).trans <| (keepsAll_call ..).trans <| (keepsAll_setPoint ..).trans <|
    (keepsAll_call ..).trans <| (keepsAll_setPoint ..).trans (keepsAll_call ..)

theorem keepsAll_recode2 (len : Nat) (s : State) : KeepsAll s (recode2 len s) :=
  ⟨by constructor <;> rfl, rfl, rfl⟩

theorem keepsAll_recode4 (len : Nat) (s : State) : KeepsAll s (recode4 len s) :=
  ⟨by constructor <;> rfl, rfl, rfl⟩

theorem keepsAll_combrec (cfg : Cfg) (d l : Nat) (s : State) : KeepsAll s (combrec cfg d l s) :=
  ⟨by constructor <;> first | rfl | exact ⟨_, rfl⟩, rfl, rfl⟩

theorem keepsAll_setX (s : State) (v : Ecpt) : KeepsAll s { s with x := v } :=
  keepsAll_setPoint s .x v

/-- What a micro-operation can do outside its working registers: the mask step writes `KA`, `AFFINE`
writes `R`, and no other touches either (10_state.md R46). -/
theorem runMicro_keepsAll (cfg : Cfg) (m : MicroOp) (s : State) (h : m ≠ .mask) (h' : m ≠ .affine) :
    KeepsAll s (runMicro cfg m s) := by
  cases m with
  | mask => exact absurd rfl h
  | affine => exact absurd rfl h'
  | decomp k pair => exact keepsAll_decomp ..
  | prep a pair => exact keepsAll_prep ..
  | recode2 len => exact keepsAll_recode2 ..
  | recode4 len => exact keepsAll_recode4 ..
  | combrec72 => exact keepsAll_combrec ..
  | combrec81 => exact keepsAll_combrec ..
  | gentab2 => exact keepsAll_gentab2 ..
  | gentab4 => exact keepsAll_gentab4 ..
  | sel2 index ct dest => exact keepsAll_sel2 ..
  | sel4 index dest => exact keepsAll_sel4 ..
  | selcomb72 ep => exact keepsAll_selcomb72 ..
  | selcomb81 ep => exact keepsAll_selcomb81 ..
  | dbl => exact (keepsAll_setX ..).trans (keepsAll_call ..)
  | add u v => exact (keepsAll_setX ..).trans (keepsAll_call ..)
  | correctGlv => exact (keepsAll_setX ..).trans (keepsAll_call ..)
  | correctFix =>
    exact (keepsAll_emit ..).trans <| (keepsAll_setPoint _ .ts _).trans <|
      (keepsAll_setX ..).trans (keepsAll_call ..)
  | correctSign => exact (keepsAll_setX ..).trans (keepsAll_call ..)

theorem runMicro_keeps (cfg : Cfg) (m : MicroOp) (s : State) : Keeps s (runMicro cfg m s) := by
  by_cases h : m = .mask
  · subst h
    constructor <;> rfl
  by_cases h' : m = .affine
  · subst h'
    constructor <;> first | rfl | exact ⟨_, rfl⟩
  exact (runMicro_keepsAll cfg m s h h').toKeeps

@[simp] theorem runMicros_nil (cfg : Cfg) (s : State) : runMicros cfg [] s = s := rfl

@[simp] theorem runMicros_cons (cfg : Cfg) (m : MicroOp) (ms : List MicroOp) (s : State) :
    runMicros cfg (m :: ms) s = runMicros cfg ms (runMicro cfg m s) := rfl

theorem runMicros_append (cfg : Cfg) (ms ns : List MicroOp) (s : State) :
    runMicros cfg (ms ++ ns) s = runMicros cfg ns (runMicros cfg ms s) := by
  simp [runMicros, List.foldl_append]

theorem runMicros_keeps (cfg : Cfg) (ms : List MicroOp) (s : State) :
    Keeps s (runMicros cfg ms s) := by
  induction ms generalizing s with
  | nil => exact Keeps.refl s
  | cons m ms ih => exact (runMicro_keeps cfg m s).trans (ih _)

theorem runMicros_keepsAll (cfg : Cfg) (ms : List MicroOp) (s : State) (h : .mask ∉ ms)
    (h' : .affine ∉ ms) : KeepsAll s (runMicros cfg ms s) := by
  induction ms generalizing s with
  | nil => exact KeepsAll.refl s
  | cons m ms ih =>
    simp only [List.mem_cons, not_or] at h h'
    exact (runMicro_keepsAll cfg m s (Ne.symm h.1) (Ne.symm h'.1)).trans (ih _ h.2 h'.2)

end Sys2Proof.Machine
end

