-- ==== Sys2Proof/Laws/PerInstr.lean ====
section
/-! SUPPORT. Statements about every command as syntax, one lemma per constructor. -/

namespace Sys2Proof.Laws.FieldsLegal

/-- The fields of a command's word pass the four checks of 30_encoding.md R82, R86. -/
def Statement (i : Instr) : Prop := i.wellFormed = true

theorem maskScalar : Statement .maskScalar := rfl

theorem mul : Statement .mul := rfl

theorem mulGen (mc : Bool) : Statement (.mulGen mc) := by cases mc <;> rfl

theorem simul : Statement .simul := rfl

theorem simulGen : Statement .simulGen := rfl

end Sys2Proof.Laws.FieldsLegal
end

