-- ==== Sys2Proof/Laws/Step.lean ====
section
/-! SUPPORT. What the port, a core step, a whole command and a step of the machine can do: one
inversion lemma each, cited instead of unfolding. -/

namespace Sys2Proof.Machine

/-- A whole command: refused while busy, else run to completion. -/
theorem runCommand_busy (cfg : Cfg) (i : Instr) (p : Plan) (s : State) (h : s.busy = true) :
    runCommand cfg i p s = .next (raiseErrBusy s) := by simp [runCommand, h]

theorem runCommand_idle (cfg : Cfg) (i : Instr) (p : Plan) (s : State) (h : s.busy = false) :
    runCommand cfg i p s = .next (runPlan cfg i p s) := by simp [runCommand, h]

/-- Every command is its own list run under the block's configuration. -/
theorem exec_eq (i : Instr) (s : State) : exec i s = runCommand Config.cfg i (planOf i) s := by
  cases i <;> rfl

/-- The whole-command transition always answers a next state. -/
theorem exec_next (i : Instr) (s : State) :
    exec i s = .next (if s.busy then raiseErrBusy s else runPlan Config.cfg i (planOf i) s) := by
  rw [exec_eq]
  cases h : s.busy
  · rw [runCommand_idle _ _ _ _ h]; rfl
  · rw [runCommand_busy _ _ _ _ h]; rfl

/-- What `hostWrite` can do, by the region of the address (10_state.md R46). -/
theorem hostWrite_cases (wa : WordAddr) (v : Limb) (s : State) :
    (regionOf wa = .cmd ∧ hostWrite wa v s = writeCmd v s) ∨
    (regionOf wa = .status ∧ hostWrite wa v s = clearErrors v s) ∨
    (∃ r j, regionOf wa = .operand r j ∧ s.busy = true ∧ hostWrite wa v s = raiseErrBusy s) ∨
    (∃ r j, regionOf wa = .operand r j ∧ s.busy = false ∧
      hostWrite wa v s = s.setOperandLimb r j v) ∨
    (hostWrite wa v s = raiseErrAddr s) := by
  unfold hostWrite
  cases h : regionOf wa with
  | cmd => exact .inl ⟨rfl, rfl⟩
  | status => exact .inr (.inl ⟨rfl, rfl⟩)
  | operand r j =>
    cases hb : s.busy
    · exact .inr (.inr (.inr (.inl ⟨r, j, rfl, rfl, by simp⟩)))
    · exact .inr (.inr (.inl ⟨r, j, rfl, rfl, by simp⟩))
  | resultX j => exact .inr (.inr (.inr (.inr rfl)))
  | resultY j => exact .inr (.inr (.inr (.inr rfl)))
  | rom m i w => exact .inr (.inr (.inr (.inr rfl)))
  | romFix w => exact .inr (.inr (.inr (.inr rfl)))
  | reserved => exact .inr (.inr (.inr (.inr rfl)))

/-- What a write of `CMD` can do. -/
theorem writeCmd_cases (cw : Limb) (s : State) :
    (s.busy = true ∧ writeCmd cw s = raiseErrBusy s) ∨
    (∃ i, s.busy = false ∧ decodeWord cw = .ok i ∧ writeCmd cw s = accept i s) ∨
    (∃ r, s.busy = false ∧ decodeWord cw = .error r ∧ writeCmd cw s = raiseErrOp s) := by
  unfold writeCmd
  cases hb : s.busy
  · cases hd : decodeWord cw with
    | ok i => exact .inr (.inl ⟨i, rfl, rfl, by simp⟩)
    | error r => exact .inr (.inr ⟨r, rfl, rfl, by simp⟩)
  · exact .inl ⟨rfl, by simp⟩

/-- What a core step can do when it answers a next state (45_drivers.md R170). -/
theorem coreStep_cases {cfg : Cfg} {s t : State} (h : coreStep cfg s = .next t) :
    (s.busy = false ∧ t = s) ∨
    (∃ i m, s.busy = true ∧ latched s.opl s.mcl = some i ∧ (planOf i).microAt s.seq = some m ∧
      t = microStep cfg (planOf i) m s) := by
  unfold coreStep at h
  cases hb : s.busy
  · left; simp [hb] at h; exact ⟨rfl, h.symm⟩
  · right
    simp only [hb, Bool.not_true, Bool.false_eq_true, if_false] at h
    cases hl : latched s.opl s.mcl with
    | none => simp [hl] at h
    | some i =>
      simp only [hl] at h
      cases hm : (planOf i).microAt s.seq with
      | none => simp [hm] at h
      | some m =>
        simp only [hm] at h
        exact ⟨i, m, rfl, rfl, hm, by cases h; rfl⟩

/-- A core step never refuses. -/
theorem coreStep_not_refused (cfg : Cfg) (s : State) (r : Refusal) : coreStep cfg s ≠ .refused r := by
  unfold coreStep
  cases s.busy
  · simp
  · simp only [Bool.not_true, Bool.false_eq_true, if_false]
    cases latched s.opl s.mcl with
    | none => simp
    | some i => cases h : (planOf i).microAt s.seq <;> simp [h]

/-- A micro step either moves `SEQ` or completes (10_state.md R42, 45_drivers.md R173). -/
theorem microStep_cases (cfg : Cfg) (p : Plan) (m : MicroOp) (s : State) :
    (∃ q, p.next s.seq = some q ∧ microStep cfg p m s = { runMicro cfg m s with seq := q }) ∨
    (p.next s.seq = none ∧ microStep cfg p m s = complete (runMicro cfg m s)) := by
  unfold microStep
  cases p.next s.seq with
  | none => exact .inr ⟨rfl, rfl⟩
  | some q => exact .inl ⟨q, rfl, rfl⟩

theorem decode_bytesOfWord (cw : Limb) :
    decode (bytesOfWord cw) =
      match decodeWord cw with
      | .ok i => .ok (i, [])
      | .error r => .error r := by
  have h : wordOfBytes (byteOfWord cw 0) (byteOfWord cw 1) (byteOfWord cw 2) (byteOfWord cw 3)
      (byteOfWord cw 4) (byteOfWord cw 5) (byteOfWord cw 6) (byteOfWord cw 7) = cw := by
    ext i hi
    simp only [wordOfBytes, byteOfWord, ← BitVec.getLsbD_eq_getElem, BitVec.getLsbD_append,
      BitVec.getLsbD_extractLsb']
    repeat' split
    all_goals rw [decide_eq_true (by omega), Bool.true_and]
    all_goals congr 1
    all_goals omega
  show (match decodeWord (wordOfBytes (byteOfWord cw 0) (byteOfWord cw 1) (byteOfWord cw 2)
      (byteOfWord cw 3) (byteOfWord cw 4) (byteOfWord cw 5) (byteOfWord cw 6) (byteOfWord cw 7)) with
    | .ok i => Except.ok (i, [])
    | .error r => Except.error r) = _
  rw [h]

/-- What a command turn does: `exec` of a legal word's command, else the refused write of `CMD`. -/
theorem commandTurn_cases (cw : Limb) (s : State) :
    (∃ i, decodeWord cw = .ok i ∧ commandTurn cw s = exec i s) ∨
    (∃ r, decodeWord cw = .error r ∧ commandTurn cw s = .next (writeCmd cw s)) := by
  unfold commandTurn
  rw [decode_bytesOfWord]
  cases decodeWord cw with
  | ok i => exact .inl ⟨i, rfl, rfl⟩
  | error r => exact .inr ⟨r, rfl, rfl⟩

/-- What a step can do when it answers a next state: a core step when nothing is asked, else the
first turn. -/
theorem step_cases {s t : State} (h : step s = .next t) :
    (s.turns = [] ∧ coreStep Config.cfg s = .next t) ∨
    (∃ rest, s.turns = .core :: rest ∧ coreStep Config.cfg { s with turns := rest } = .next t) ∨
    (∃ wa v rest, s.turns = .write wa v :: rest ∧ t = hostWrite wa v { s with turns := rest }) ∨
    (∃ wa rest, s.turns = .read wa :: rest ∧ t = receive Config.cfg wa { s with turns := rest }) ∨
    (∃ cw rest, s.turns = .command cw :: rest ∧
      commandTurn cw { s with turns := rest } = .next t) ∨
    (∃ rest, s.turns = .reset :: rest ∧ t = resetEvent { s with turns := rest }) := by
  unfold step transition at h
  cases ht : s.turns with
  | nil => rw [ht] at h; exact .inl ⟨rfl, h⟩
  | cons a rest =>
    rw [ht] at h
    cases a with
    | write wa v =>
      exact .inr (.inr (.inl ⟨wa, v, rest, rfl, by cases h; rfl⟩))
    | read wa => exact .inr (.inr (.inr (.inl ⟨wa, rest, rfl, by cases h; rfl⟩)))
    | core => exact .inr (.inl ⟨rest, rfl, h⟩)
    | command cw => exact .inr (.inr (.inr (.inr (.inl ⟨cw, rest, rfl, h⟩))))
    | reset => exact .inr (.inr (.inr (.inr (.inr ⟨rest, rfl, by cases h; rfl⟩))))

end Sys2Proof.Machine
end

