-- ==== Sys2Proof/Tests/Slice0.lean ====
section
/-! SUPPORT. Tests of the model with expected values from spec/ (the vector or rule is named), and, for
every obligation with hypotheses, a concrete state and operands that meet all of them; the instance of the
collaborators' contract is that of Sys2Proof/Laws/Conic.lean. -/

namespace Sys2Proof.Tests

open Sys2Proof Sys2Proof.Machine

/-! ### Toy collaborators, for the vectors -/

/-- The `q` of 95_test_vectors.md section 0. -/
def toyQ : Nat := 0x0FFFFFFFFFFFFFFFFFFFFFFFFFFFFFFFA6261414C0DC87D3CE9B68E3B09E01A5

/-- The order `4q` of the toy group, the integers modulo `4q`. -/
def toyN : Nat := 4 * toyQ

/-- A point that stands for the integer `n` modulo `4q` in its `x` word. -/
def toyPoint (n : Nat) : Ecpt := ⟨BitVec.ofNat 256 (n % toyN), 0, 0, 1⟩

/-- An affine point that stands for `n` modulo `4q`. -/
def toyAffine (n : Nat) : Affine := ⟨BitVec.ofNat 256 (n % toyN), 0⟩

/-- Collaborators over the integers modulo `4q`, after 95_test_vectors.md section 0, with
`φ = ×2^126` in place of the spec's. -/
def toyCurve : Curve where
  feMul _ _ := 0
  feSetSmallk n := BitVec.ofNat 256 n
  ecAdd U V := toyPoint (U.x.toNat + V.x.toNat)
  ecDbl U := toyPoint (U.x.toNat + U.x.toNat)
  ecNeg U := toyPoint (toyN - U.x.toNat % toyN)
  ecCondNeg c U := if c then toyPoint (toyN - U.x.toNat % toyN) else U
  ecCondAdd c U V := if c then toyPoint (U.x.toNat + V.x.toNat) else U
  ecAffine U := toyAffine U.x.toNat
  ecExpand x y := ⟨x, y, 0, 1⟩
  glsMorph x _ := toyAffine (2 ^ 126 * x.toNat)
  glsDecompose := Conic.halves
  negModQ k := BitVec.ofNat 256 (toyQ - k.toNat)

/-- A configuration with the toy collaborators and `G = 4`. -/
def toyCfg : Cfg :=
  { curve := toyCurve, pField := 0, dCurve := 0, qOrder := toyQ, gAffine := ⟨4, 0⟩, lambda := 2 ^ 126
    idAffine := ⟨0, 0⟩, genFixT := 0, vtTrace := fun _ k => [k], lat := fun _ => 1 }

/-! ### WellFormed: each check refuses a word the spec calls illegal (30_encoding.md R86) -/

/-- Opcode 6 is reserved. -/
theorem test_opcode_refused :
    (⟨6, 0, false, 0⟩ : CommandWord).opcodeOk = false ∧
      (⟨6, 0, false, 0⟩ : CommandWord).wellFormed = false ∧
      (⟨0, 0, false, 0⟩ : CommandWord).opcodeOk = false := by decide

/-- Bit 4 must be 0. -/
theorem test_low_bits_refused :
    (⟨1, 1, false, 0⟩ : CommandWord).lowOk = false ∧
      (⟨1, 1, false, 0⟩ : CommandWord).wellFormed = false := by decide

/-- Bit 32 must be 0. -/
theorem test_high_bits_refused :
    (⟨1, 0, false, 0x800000⟩ : CommandWord).highOk = false ∧
      (⟨1, 0, false, 0x800000⟩ : CommandWord).wellFormed = false := by decide

/-- `MC` belongs to `MUL_GEN` alone. -/
theorem test_cofactor_refused :
    (⟨2, 0, true, 0⟩ : CommandWord).cofactorOk = false ∧
      (⟨2, 0, true, 0⟩ : CommandWord).wellFormed = false ∧
      (⟨3, 0, true, 0⟩ : CommandWord).wellFormed = true := by decide

/-! ### Decoding: each command's word bit by bit (30_encoding.md R80, R82), least significant byte first -/

theorem test_decode_maskScalar :
    decode [0b00000001#8, 0b00000000#8, 0, 0, 0, 0, 0, 0] = .ok (.maskScalar, []) := by decide

theorem test_decode_mul :
    decode [0b00000010#8, 0b00000000#8, 0, 0, 0, 0, 0, 0] = .ok (.mul, []) := by decide

theorem test_decode_mulGen :
    decode [0b00000011#8, 0b00000000#8, 0, 0, 0, 0, 0, 0] = .ok (.mulGen false, []) ∧
      decode [0b00000011#8, 0b00000001#8, 0, 0, 0, 0, 0, 0] = .ok (.mulGen true, []) := by decide

theorem test_decode_simul :
    decode [0b00000100#8, 0b00000000#8, 0, 0, 0, 0, 0, 0] = .ok (.simul, []) := by decide

theorem test_decode_simulGen :
    decode [0b00000101#8, 0b00000000#8, 0, 0, 0, 0, 0, 0] = .ok (.simulGen, []) := by decide

/-- 95_test_vectors.md 2.10 rows 1 to 5. -/
theorem test_decode_illegal :
    decodeWord 0x0 = .error (.reservedOpcode 0) ∧ decodeWord 0x6 = .error (.reservedOpcode 6) ∧
      decodeWord 0x102 = .error .cofactorNotAllowed ∧ decodeWord 0x13 = .error .reservedLow ∧
      decodeWord 0x0000000100000001 = .error .reservedHigh := by decide

/-! ### One step of each command -/

/-- The next state, or the reset state where a step stops. -/
def nextOf : Host.Outcome State Fault Refusal → State
  | .next s => s
  | .fault _ => State.reset
  | .refused _ => State.reset

/-- A command accepted in `s` and moved to a position of its list. -/
def at' (i : Instr) (ph : Phase) (ii sub : BitVec 8) (s : State) : State :=
  { accept i s with seq := { phase := ph, ii := ii, sub := sub } }

/-- 95_test_vectors.md 2.1 rows 1, 2 and 4. -/
theorem test_mask_scalar :
    maskScalar 0xFFFFFFFFFFFFFFFFFFFFFFFFFFFFFFFFFFFFFFFFFFFFFFFFFFFFFFFFFFFFFFFF =
        0x07FFFFFFFFFFFFFFFFFFFFFFFFFFFFFFFFFFFFFFFFFFFFFFFFFFFFFFFFFFFFFF ∧
      maskScalar 0xFF00000000000000000000000000000000000000000000000000000000001234 =
        0x0700000000000000000000000000000000000000000000000000000000001234 ∧
      maskScalar 0x0800000000000000000000000000000000000000000000000000000000000000 = 0 := by
  decide

/-- 95_test_vectors.md 2.1: one step, afterwards `STATUS = 0x82` and an empty trace. -/
theorem test_mask_scalar_status :
    statusWord (nextOf (exec .maskScalar State.reset)) = 0x82 ∧
      (nextOf (exec .maskScalar State.reset)).trace = [] := by decide

/-- `MUL`, `SETUP` 2: `RECODE2(128)`, 95_test_vectors.md 2.2 row 8. -/
theorem test_mul_recode :
    let s := { State.reset with
      s0 := 0x02468ACF13579BDE1FDB97530ECA8642, s1 := 0x1FDB97530ECA8642002468ACF13579BD }
    let t := nextOf (coreStep toyCfg (at' .mul .setup 0 2 s))
    t.lsb = true ∧ t.s0 = 0x8123456789ABCDEF0FEDCBA987654320 ∧
      t.s1 = 0xE064EB73F34A8A420024A955114A8A43 ∧ t.seq = ⟨.tableBuild, 0, 0⟩ := by
  decide +kernel

/-- `MUL`, `SEED` 0: `SEL2(126)` on the words of 2.4 (`k = 7`), every slot read once. -/
theorem test_mul_seed :
    let s := { State.reset with
      s0 := 0x80000000000000000000000000000002, s1 := 0xFFFFFFFFFFFFFFFFFFFFFFFFFFFFFFFD
      tab := State.reset.tab.set 7 (toyPoint 1001) }
    let t := nextOf (coreStep toyCfg (at' .mul .seed 0 0 s))
    t.x = toyPoint 1001 ∧ t.seq = ⟨.iterate, 124, 0⟩ ∧
      t.trace = [.rd .tab 0, .rd .tab 1, .rd .tab 2, .rd .tab 3, .rd .tab 4, .rd .tab 5, .rd .tab 6,
        .rd .tab 7, .op .ecCondNeg [.entry]] := by
  decide

/-- `MUL_GEN`, `SETUP` 0: `COMBREC72` of `k2`, 95_test_vectors.md 2.5 row 7. -/
theorem test_mulGen_recode :
    let s := { State.reset with
      ka := 0x036F675C81E74EF5E8E25D940ED904759531985D5D9DC9F81818E811892F902C }
    let t := nextOf (coreStep toyCfg (at' (.mulGen false) .setup 0 0 s))
    t.clsb = true ∧ t.rb = 0x1590A9AD82E9B11AFF6262FC7F29048A111C844FE4C14224BF82813913B738BC ∧
      topCarry t.rb = true ∧ t.seq = ⟨.seed, 0, 0⟩ := by
  decide +kernel

/-- `MUL_GEN`, `CORRECT` 1: `CLSB` negates the accumulator (R182), and without `MC` the cofactor phase
is passed through (R171). -/
theorem test_mulGen_sign :
    let t := nextOf (coreStep toyCfg (at' (.mulGen false) .correct 0 1
      { State.reset with clsb := true, x := toyPoint 4 }))
    t.x = toyPoint (toyN - 4) ∧ t.seq = ⟨.affine, 0, 0⟩ := by
  decide

/-- `SIMUL`, `SETUP` 4: `RECODE4(127)`, 95_test_vectors.md 2.2 second table row 3. -/
theorem test_simul_recode :
    let s := { State.reset with
      s0 := 0x80000000000000000000000000000000, s1 := 0x40000000000000000000000000000000, s3 := 1 }
    let t := nextOf (coreStep toyCfg (at' .simul .setup 0 4 s))
    t.lsb = true ∧ t.s0 = 0x7FFFFFFFFFFFFFFFFFFFFFFFFFFFFFFF ∧
      t.s1 = 0x40000000000000000000000000000000 ∧ t.s2 = 0 ∧ t.s3 = 1 := by
  decide +kernel

/-- `SIMUL`, `TABLE_BUILD` 0: `GENTAB4`, 95_test_vectors.md 2.3 row 2. -/
theorem test_simul_table :
    let s := { State.reset with
      b0 := toyPoint 1, b1 := toyPoint 10, b2 := toyPoint 100, b3 := toyPoint 1000 }
    (nextOf (coreStep toyCfg (at' .simul .tableBuild 0 0 s))).tab.toList =
      [1, 11, 101, 111, 1001, 1011, 1101, 1111].map toyPoint := by
  decide

/-- `SIMUL_GEN`, `SETUP` 3: `COMBREC81` of `k2`, 95_test_vectors.md 2.5 row 7. -/
theorem test_simulGen_recode :
    let s := { State.reset with
      ka := 0x036F675C81E74EF5E8E25D940ED904759531985D5D9DC9F81818E811892F902C }
    let t := nextOf (coreStep toyCfg (at' .simulGen .setup 0 3 s))
    t.clsb = true ∧ t.rb = 0x149198A58629BF0EEF2EAEEC3127058E117585B9A3CF425C4E838F5693B738BC := by
  decide +kernel

/-- `SIMUL_GEN`, `TABLE_BUILD` 0: `GENTAB2`, 95_test_vectors.md 2.3 row 1. -/
theorem test_simulGen_table :
    let s := { State.reset with b0 := toyPoint 1, b1 := toyPoint 1000 }
    (nextOf (coreStep toyCfg (at' .simulGen .tableBuild 0 0 s))).tab.toList =
      [3, 1003, 2003, 3003, 1, toyN - 999, 2001, 1001].map toyPoint := by
  decide

/-- A static table word, 95_test_vectors.md 2.7: `GT0[1].x.limb[0]` at word `0x208`. -/
theorem test_rom_word : hostRead toyCfg 0x208#12 State.reset = 0x0000004000000004 := by
  decide

/-- 95_test_vectors.md 2.10 rows 6 to 9 and 12. -/
theorem test_error_flags :
    let s := hostWrite 0x000#12 0x103 State.reset
    statusWord s = 0x11 ∧ statusWord (hostWrite 0x008#12 5 s) = 0x211 ∧
      (hostWrite 0x008#12 5 s).ka = 0 ∧ statusWord (hostWrite 0x000#12 6 s) = 0x211 ∧
      statusWord (hostWrite 0x020#12 1 s) = 0x411 ∧
      statusWord (hostWrite 0x001#12 0x200 { State.reset with
        done := true, errOp := true, errBusy := true, errAddr := true
        seq := ⟨.done, 0, 0⟩ }) = 0x582 := by
  decide

/-! ### Witnesses: for each obligation with hypotheses, a state and operands that meet all of them -/

/-- An idle core with operands, all error flags set, and a finished command behind it. -/
def idle : State :=
  { State.reset with
    ka := 5, kb := 7, p := ⟨20, 0⟩, q := ⟨12, 0⟩, r := ⟨9, 8⟩, s2 := 3, rb := 11, done := true
    errOp := true, errBusy := true, errAddr := true, seq := ⟨.done, 0, 0⟩, opl := 2 }

/-- A core in the middle of the ladder of `MUL`. -/
def running : State := at' .mul .iterate 8 1 idle

/-- A core at the last micro-operation of `MUL_GEN` with `MC = 1`. -/
def finishing : State := at' (.mulGen true) .affine 0 0 idle

theorem test_IllegalWordsSetErrOp_witness :
    idle.busy = false ∧ ∀ i, decodeWord 0x102#64 ≠ .ok i :=
  ⟨rfl, by
    intro i h
    rw [show decodeWord 0x102#64 = .error .cofactorNotAllowed by decide] at h
    cases h⟩

theorem test_StepRunsTheDecodedCommand_witness :
    (idle.withFetchWord 64 0x103).turns = .command 0x103#64 :: [] ∧
      decodeWord 0x103#64 = .ok (.mulGen true) ∧
      (idle.withFetchWord 64 0x13).turns = .command 0x13#64 :: [] ∧
      decodeWord 0x13#64 = .error .reservedLow := by decide

theorem test_CoreStepRunsOneMicroOperation_witness :
    (running.turns = [] ∧ running.busy = true ∧ latched running.opl running.mcl = some .mul ∧
      (planOf .mul).microAt running.seq = some .dbl ∧
      (planOf .mul).next running.seq = some ⟨.iterate, 8, 2⟩) ∧
    (finishing.turns = [] ∧ finishing.busy = true ∧
      latched finishing.opl finishing.mcl = some (.mulGen true) ∧
      (planOf (.mulGen true)).microAt finishing.seq = some .affine ∧
      (planOf (.mulGen true)).next finishing.seq = none) ∧
    (idle.turns = [] ∧ idle.busy = false) := by decide

theorem test_CommandWhileBusyIsRefused_witness : running.busy = true := rfl

theorem test_AcceptanceLatchesTheCommand_witness :
    (idle.busy = false ∧ decodeWord 0x103#64 = .ok (.mulGen true)) ∧
      (idle.busy = false ∧ decodeWord 0x1#64 = .ok .maskScalar) ∧ running.busy = true ∧
      decodeWord 0x0#64 = .error (.reservedOpcode 0) := by decide

theorem test_BusyWritesAreDropped_witness :
    running.busy = true ∧ (0x000#12).toNat = 0x000 ∧
      (0x008 ≤ (0x008#12).toNat ∧ (0x008#12).toNat < 0x020) ∧
      (0x008 ≤ (0x01F#12).toNat ∧ (0x01F#12).toNat < 0x020) := by decide

/-- The first and last address of each reserved range, and the first and last read-only word. -/
theorem test_ReadOnlyAndReservedWords_witness :
    ([0x002#12, 0x007#12].all fun wa => 0x002 ≤ wa.toNat ∧ wa.toNat < 0x008) ∧
      ([0x020#12, 0xFFF#12].all fun wa => 0x020 ≤ wa.toNat) ∧
      ([0x028#12, 0x1FF#12].all fun wa => 0x028 ≤ wa.toNat ∧ wa.toNat < 0x200) ∧
      ([0x610#12, 0x7FF#12].all fun wa => 0x610 ≤ wa.toNat ∧ wa.toNat < 0x800) ∧
      ([0xC00#12, 0xFFF#12].all fun wa => 0xC00 ≤ wa.toNat) := by decide

theorem test_OperandWriteThenRead_witness :
    idle.busy = false ∧ ([0x008#12, 0x01F#12].all fun wa => 0x008 ≤ wa.toNat ∧ wa.toNat < 0x020) ∧
      (0x020#12 : WordAddr) ≠ 0x01F#12 := by decide

/-- `j` at 0 and 3 (and `i` at the last slot), the boundary values of the word and slot numbers. -/
theorem test_RegisterAndRomWords_witness :
    0 < 4 ∧ 3 < 4 ∧ 63 < 64 ∧ 127 < 128 ∧ hostRead toyCfg (0x020#12 + BitVec.ofNat 12 0) idle = 9 ∧
      hostRead toyCfg (0x020#12 + BitVec.ofNat 12 0) running = 0 := by decide

/-- Each flag is set, and the turn is a write of `STATUS` that clears none of the three. -/
theorem test_ErrorFlagsAreSticky_witness :
    let s := { idle with turns := [.write 0x001#12 0x3] }
    step s = .next idle ∧ (∀ rest, s.turns ≠ .reset :: rest) ∧ s.errOp = true ∧ s.errBusy = true ∧
      s.errAddr = true ∧
      (∀ v rest, v.getLsbD 8 = true → s.turns ≠ .write 0x001#12 v :: rest) ∧
      (∀ v rest, v.getLsbD 9 = true → s.turns ≠ .write 0x001#12 v :: rest) ∧
      (∀ v rest, v.getLsbD 10 = true → s.turns ≠ .write 0x001#12 v :: rest) := by
  refine ⟨rfl, by simp, rfl, rfl, rfl, ?_, ?_, ?_⟩ <;>
    (intro v rest h e
     simp only [List.cons.injEq, Turn.write.injEq, true_and] at e
     rw [← e.1] at h
     exact absurd h (by decide))

/-- The one hypothesis `busy = false` of `ErrorFlagsDoNotAffectCommands`, `MaskScalarResult`,
`MaskScalarProperties`, `MulCompletes`, `MulGenCompletes`, `SimulCompletes`, `SimulGenCompletes`,
`WholeCommandIsItsCoreSteps` and `SimulGenOnlyReadsVary`. -/
theorem test_idle_witness : idle.busy = false ∧ idle ≠ State.reset := by decide

theorem test_ReadsChangeNothing_witness :
    ({ idle with turns := [.read 0x200#12] } : State).turns = .read 0x200#12 :: [] := rfl

/-- A step (the reset event) and the first and last word of both ROM ranges. -/
theorem test_RomNeverChanges_witness :
    step { running with turns := [.reset] } = .next State.reset ∧
      ([0x200#12, 0x60F#12].all fun wa => 0x200 ≤ wa.toNat ∧ wa.toNat < 0x610) ∧
      ([0x800#12, 0xBFF#12].all fun wa => 0x800 ≤ wa.toNat ∧ wa.toNat < 0xC00) := by
  refine ⟨rfl, ?_, ?_⟩ <;> decide

/-- Slots 0 and 7; the ROM ranges are those of `test_RomNeverChanges_witness`. -/
theorem test_ResetValues_witness : 0 < 8 ∧ 7 < 8 := by decide

theorem test_ResetEventFromAnyState_witness :
    ({ running with turns := [.reset] } : State).turns = .reset :: [] := rfl

/-- Bytes 0 and 30 of the buffer, and a low part that is 0 under set top bits. -/
theorem test_MaskScalarProperties_witness :
    0 < 31 ∧ 30 < 31 ∧ (0xF8#256 <<< 248).toNat % 2 ^ 251 = 0 ∧ 2 ^ 251 < 2 ^ 251 + 1 := by decide

/-- Byte 30 of `KA` for `MASK_SCALAR`, the words around `R` for a driver. -/
theorem test_CommandsKeepEveryOtherByte_witness :
    idle.busy = false ∧ (8 * 0x00B + 6 < 8 * 4096 ∧ (8 * 0x00B + 6) / 8 ≠ 0x001 ∧
      8 * 0x00B + 6 ≠ 8 * 0x00B + 7) ∧
      (8 * 0x01F + 7 < 8 * 4096 ∧ (8 * 0x01F + 7) / 8 < 0x020) ∧
      (8 * 0x028 < 8 * 4096 ∧ 0x028 ≤ (8 * 0x028) / 8) := by decide

theorem test_BusyUntilTheLastMicroOperation_witness :
    idle.busy = false ∧ 0 < coreSteps .maskScalar ∧ 75 < coreSteps (.mulGen true) := by decide

/-- Two states in the same position with different operands. -/
theorem test_SequencerIgnoresData_witness :
    let t := { running with ka := 99, s0 := 1, lsb := true }
    running.busy = true ∧ t.busy = true ∧ running.opl = t.opl ∧ running.mcl = t.mcl ∧
      running.seq = t.seq ∧ running ≠ t ∧
      coreStep toyCfg running = .next (nextOf (coreStep toyCfg running)) ∧
      coreStep toyCfg t = .next (nextOf (coreStep toyCfg t)) :=
  ⟨rfl, rfl, rfl, rfl, rfl, by decide, rfl, rfl⟩

/-- A state inside a ladder and one at a last micro-operation have the invariant and a next core step
(`PhaseNeverDecreases`, `HostCannotDisturbACommand`, `NothingFaults`). -/
theorem test_core_step_witness :
    (runInv { running with r := .zero } = true ∧ running.busy = true ∧
      coreStep toyCfg running = .next (nextOf (coreStep toyCfg running))) ∧
    (runInv finishing = true ∧ finishing.busy = true ∧
      coreStep toyCfg finishing = .next (nextOf (coreStep toyCfg finishing))) :=
  ⟨⟨by decide, rfl, rfl⟩, by decide, rfl, rfl⟩

theorem test_StepKeepsRunInvariant_witness :
    runInv { idle with turns := [.write 0x000#12 0x1] } = true ∧
      step { idle with turns := [.write 0x000#12 0x1] } = .next (accept .maskScalar idle) := by
  refine ⟨by decide, rfl⟩

theorem test_TraceInvariance_witness :
    (Instr.maskScalar ≠ .simulGen ∧ Instr.mul ≠ .simulGen ∧ Instr.mulGen true ≠ .simulGen ∧
      Instr.simul ≠ .simulGen) ∧ idle.busy = false := by decide

/-- Two idle states with the same operands of `MUL` and other registers different. -/
theorem test_CommandsArePure_witness :
    let t := { idle with kb := 1, q := ⟨1, 1⟩, r := ⟨0, 0⟩, s0 := 6, x := toyPoint 3 }
    idle.busy = false ∧ t.busy = false ∧ idle ≠ t ∧ sameOperands .mul idle t ∧
      Instr.mul.isDriver = true ∧ sameOperands .maskScalar idle t :=
  ⟨rfl, rfl, by decide, ⟨rfl, rfl⟩, rfl, rfl⟩

/-- The sign word at its bounds `1` and `2^127`, and companions that meet the bound of R115 with
equality (95_test_vectors.md 2.2 row 7 and the second table's row 3). -/
theorem test_RecodeValueLaw_witness :
    let s := { State.reset with s0 := BitVec.ofNat 128 (2 ^ 127), s1 := BitVec.ofNat 128 (2 ^ 126) }
    let u := { State.reset with s0 := 1, s1 := BitVec.ofNat 128 (2 ^ 127) }
    (1 ≤ s.s0.toNat ∧ s.s0.toNat ≤ 2 ^ 127 ∧
      s.s1.toNat + (~~~(recode4 127 s).s0 &&& BitVec.ofNat 128 (2 ^ 126 - 1)).toNat ≤ 2 ^ 127 - 1) ∧
    (1 ≤ u.s0.toNat ∧ u.s0.toNat ≤ 2 ^ 128 ∧
      u.s1.toNat + (~~~(recode2 128 u).s0 &&& BitVec.ofNat 128 (2 ^ 127 - 1)).toNat = 2 ^ 128 - 1) := by
  decide

/-- Both lengths. -/
theorem test_RecodedTopDigit_witness :
    (127 = 127 ∨ 127 = 128) ∧ (128 = 127 ∨ 128 = 128) ∧ (127 = 127 ∨ 127 = 128) := by decide

/-- The toy configuration, with the least and the greatest scalar of the domain, one of each parity. -/
theorem test_CombRecodeValueLaw_witness :
    toyCfg.qOrder % 2 = 1 ∧ toyCfg.qOrder < 2 ^ 252 ∧
      (∀ k, scalarInDomain toyCfg k →
        (toyCfg.curve.negModQ k).toNat = toyCfg.qOrder - k.toNat) ∧
      scalarInDomain toyCfg 1 ∧ scalarInDomain toyCfg (BitVec.ofNat 256 (toyQ - 1)) := by
  refine ⟨by decide, by decide, fun k _ => ?_, by unfold scalarInDomain; decide,
    by unfold scalarInDomain; decide⟩
  have hq : toyQ < 2 ^ 256 := by decide
  show (BitVec.ofNat 256 (toyQ - k.toNat)).toNat = toyQ - k.toNat
  rw [BitVec.toNat_ofNat, Nat.mod_eq_of_lt (lt_of_le_of_lt (Nat.sub_le _ _) hq)]

theorem test_TopCarryIsOneBit_witness :
    (BitVec.ofNat 256 (2 ^ 252 - 1)).getLsbD 0 = true ∧
      (BitVec.ofNat 256 (2 ^ 252 - 1)).toNat < 2 ^ 252 := by decide

theorem test_GenMaskSelectsOneSlot_witness :
    0 < 2 ^ 63 ∧ 127 < 2 ^ 63 ∧ genMask 127 127 = BitVec.allOnes 64 ∧ genMask 0 127 = 0 := by decide

/-- The last slot of each memory, and a read list with the wanted slot in it. -/
theorem test_ScanAndFetch_witness :
    7 < 8 ∧ 63 < AffineRom.gt0.slots ∧ 63 < AffineRom.gt1.slots ∧ 127 < AffineRom.sgt.slots ∧
      127 ∈ [3, 127] := by decide

/-- The m=2 table of `A = G`, `B = 3G`, and the first and last index. -/
theorem test_Sel2ValueLaw_witness :
    ∃ (F E : Type) (_ : Field F) (_ : AddCommGroup E) (cfg : Cfg) (L : GroupLaws cfg F E) (s : State)
      (A B : E), A ≠ B ∧ (∀ k, k < 8 → L.rep (s.slot k) (slot2Value k A B)) ∧
      0 % 2 = 0 ∧ 126 % 2 = 0 ∧ 126 ≤ 126 := by
  have := Conic.edP_fact
  refine ⟨_, _, _, _, Conic.cfg, Conic.laws,
    { State.reset with tab := Vector.ofFn fun k => Conic.ptOf (Conic.val
        (slot2Value k Conic.g Conic.other)) }, Conic.g, Conic.other, Conic.g_ne_other,
    fun k hk => ?_, rfl, rfl, le_rfl⟩
  refine (congrArg (Conic.pointCode.rep · _) ?_).mpr (Conic.rep_ptOf rfl)
  interval_cases k <;> rfl

/-- The m=4 table of four points, and the last index. -/
theorem test_Sel4ValueLaw_witness :
    ∃ (F E : Type) (_ : Field F) (_ : AddCommGroup E) (cfg : Cfg) (L : GroupLaws cfg F E) (s : State)
      (A B C D : E), A ≠ B ∧ (∀ k, k < 8 → L.rep (s.slot k) (slot4Value k A B C D)) ∧ 126 ≤ 126 := by
  have := Conic.edP_fact
  refine ⟨_, _, _, _, Conic.cfg, Conic.laws,
    { State.reset with tab := Vector.ofFn fun k => Conic.ptOf (Conic.val
        (slot4Value k Conic.g Conic.other (-Conic.g) (-Conic.other))) },
    Conic.g, Conic.other, -Conic.g, -Conic.other, Conic.g_ne_other, fun k hk => ?_, le_rfl⟩
  refine (congrArg (Conic.pointCode.rep · _) ?_).mpr (Conic.rep_ptOf rfl)
  interval_cases k <;> rfl

/-- `GroupLaws` has an instance; columns 0 and the last (`SelComb72ValueLaw`, `SelComb81ValueLaw`,
`RomHoldsMultiplesOfG`). -/
theorem test_SelComb_witness :
    (∃ (F E : Type) (_ : Field F) (_ : AddCommGroup E) (cfg : Cfg), Nonempty (GroupLaws cfg F E)) ∧
      0 < 18 ∧ 17 < 18 ∧ 0 < 32 ∧ 31 < 32 ∧ 63 < 64 ∧ 127 < 128 := by
  have := Conic.edP_fact
  exact ⟨⟨_, _, _, _, Conic.cfg, ⟨Conic.laws⟩⟩, by decide⟩

/-- Bases for both generators (`GenTab2Slots`, `GenTab4Slots`). -/
theorem test_GenTab_witness :
    ∃ (F E : Type) (_ : Field F) (_ : AddCommGroup E) (cfg : Cfg) (L : GroupLaws cfg F E) (s : State)
      (A B C D : E), A ≠ B ∧ L.rep s.b0 A ∧ L.rep s.b1 B ∧ L.rep s.b2 C ∧ L.rep s.b3 D := by
  have := Conic.edP_fact
  exact ⟨_, _, _, _, Conic.cfg, Conic.laws,
    { State.reset with
      b0 := Conic.ptOf (Conic.val Conic.g), b1 := Conic.ptOf (Conic.val Conic.other)
      b2 := Conic.ptOf (Conic.val (-Conic.g)), b3 := Conic.ptOf (Conic.val (-Conic.other)) },
    Conic.g, Conic.other, -Conic.g, -Conic.other, Conic.g_ne_other, Conic.rep_ptOf rfl,
    Conic.rep_ptOf rfl, Conic.rep_ptOf rfl, Conic.rep_ptOf rfl⟩

/-- The field contract has an instance, with a pair on the curve and one off it. -/
theorem test_AffineToExtRepresents_witness :
    ∃ (F : Type) (_ : Field F) (cfg : Cfg) (L : FieldLaws cfg F) (e f : Affine),
      onCurve (L.dec cfg.dCurve) (L.dec e.x) (L.dec e.y) ∧
      ¬ onCurve (L.dec cfg.dCurve) (L.dec f.x) (L.dec f.y) := by
  have := Conic.edP_fact
  exact ⟨_, _, Conic.cfg, Conic.laws.toFieldLaws, Conic.affineOf 16, ⟨1, 0⟩, Conic.affineOf_onCurve,
    Conic.off_curve⟩

/-- Operands of the domain for all four drivers' laws, neither point the identity, the scalars the least
and the greatest of the domain (`MulLaw`, `MulGenLaw`, `SimulLaw`, `SimulGenLaw`). -/
theorem test_driver_laws_witness :
    ∃ (F E : Type) (_ : Field F) (_ : AddCommGroup E) (cfg : Cfg) (L : GroupLaws cfg F E) (s : State)
      (A B : E), s.busy = false ∧ scalarInDomain cfg s.ka ∧ scalarInDomain cfg s.kb ∧
      L.pointInDomain s.p A ∧ L.pointInDomain s.q B ∧ A ≠ B := by
  have := Conic.edP_fact
  refine ⟨_, _, _, _, Conic.cfg, Conic.laws,
    { idle with
      ka := 1, kb := BitVec.ofNat 256 (Conic.edQ - 1), p := Conic.affineOf (Conic.val Conic.g)
      q := Conic.affineOf (Conic.val Conic.other) },
    Conic.g, Conic.other, rfl, ?_, ?_, ⟨Conic.repAffine_affineOf rfl, Conic.g_ne_zero⟩,
    ⟨Conic.repAffine_affineOf rfl, Conic.other_ne_zero⟩, Conic.g_ne_other⟩
  · show 0 < (1#256).toNat ∧ (1#256).toNat < Conic.edQ
    decide
  · show 0 < (BitVec.ofNat 256 (Conic.edQ - 1)).toNat ∧
      (BitVec.ofNat 256 (Conic.edQ - 1)).toNat < Conic.edQ
    decide

/-- The reads of the table generator stay, those before a call on the fetched entry go
(70_reset_and_hazards.md R272). -/
theorem test_withoutSelectorReads :
    withoutSelectorReads [.rd .tab 4, .op .ecAdd [.slot 4, .point .b1], .rd .tab 3, .rd .tab 7,
        .op .ecCondNeg [.entry]] =
      [.rd .tab 4, .op .ecAdd [.slot 4, .point .b1], .op .ecCondNeg [.entry]] := by decide

/-- One core step between the `CMD` write and the poll. -/
theorem test_MaskScalarHostProgram_witness :
    let s := { State.reset with turns := hostMaskScalar 0xFF [1] }
    s.busy = false ∧ s.errOp = false ∧ s.errBusy = false ∧ s.errAddr = false ∧ 1 ≤ 1 ∧
      s.turns = hostMaskScalar 0xFF [1] := ⟨rfl, rfl, rfl, rfl, le_refl _, rfl⟩

end Sys2Proof.Tests
end

section
/-! PROOFS. The host register map (spec 20_memory.md R62 to R64, R69; 60_exceptions.md R244): which word
addresses each region has, the words of the ROM windows, and what follows for reads and writes. -/

namespace Sys2Proof.Machine

/-! ### The register map, read from the regions to the addresses -/

/-- The word address of limb 0 of an operand register (R63). -/
def OperandReg.base : OperandReg → Nat
  | .ka => 0x008
  | .kb => 0x00C
  | .px => 0x010
  | .py => 0x014
  | .qx => 0x018
  | .qy => 0x01C

theorem operandOf_base {n : Nat} (hn : n < 6) : (operandOf n).base = 0x008 + 4 * n := by
  interval_cases n <;> rfl

/-- The first word address of a ROM's window (R63). -/
def AffineRom.base : AffineRom → Nat
  | .gt0 => 0x200
  | .gt1 => 0x400
  | .sgt => 0x800

/-- The word addresses of a region: the table of R63 with the slots of R69, the inverse of `regionOf`
(`regionOf_eq_iff`). The reserved words are the four gaps. -/
def Region.At : Region → Nat → Prop
  | .cmd, a => a = 0x000
  | .status, a => a = 0x001
  | .operand r j, a => j < 4 ∧ a = r.base + j
  | .resultX j, a => j < 4 ∧ a = 0x020 + j
  | .resultY j, a => j < 4 ∧ a = 0x024 + j
  | .rom m i w, a => i < m.slots ∧ w < 8 ∧ a = m.base + 8 * i + w
  | .romFix w, a => w < 16 ∧ a = 0x600 + w
  | .reserved, a =>
    (0x002 ≤ a ∧ a < 0x008) ∨ (0x028 ≤ a ∧ a < 0x200) ∨ (0x610 ≤ a ∧ a < 0x800) ∨ 0xC00 ≤ a

theorem Region.at_ite {c : Prop} [Decidable c] {r r' : Region} {a : Nat} (h : c → r.At a)
    (h' : ¬c → r'.At a) : (if c then r else r').At a := by
  split
  next hc => exact h hc
  next hc => exact h' hc

theorem Region.at_operand {a : Nat} (h : 0x008 ≤ a) (h' : a < 0x020) :
    (Region.operand (operandOf ((a - 0x008) / 4)) ((a - 0x008) % 4)).At a := by
  refine ⟨by omega, ?_⟩
  rw [operandOf_base (by omega)]
  omega

theorem Region.at_rom (m : AffineRom) {a : Nat} (h : m.base ≤ a) (h' : a < m.base + 8 * m.slots) :
    (Region.rom m ((a - m.base) / 8) ((a - m.base) % 8)).At a :=
  ⟨by omega, by omega, by omega⟩

/-- One line for each window of the map, in address order. -/
theorem regionOf_at (wa : WordAddr) : (regionOf wa).At wa.toNat := by
  unfold regionOf
  exact Region.at_ite (fun h => h) fun _ =>
    Region.at_ite (fun h => h) fun _ =>
    Region.at_ite (fun h => .inl ⟨by omega, h⟩) fun _ =>
    Region.at_ite (fun h => Region.at_operand (by omega) h) fun _ =>
    Region.at_ite (fun _ => ⟨by omega, by omega⟩) fun _ =>
    Region.at_ite (fun _ => ⟨by omega, by omega⟩) fun _ =>
    Region.at_ite (fun h => .inr (.inl ⟨by omega, h⟩)) fun lo =>
    Region.at_ite (fun h => Region.at_rom .gt0 (Nat.le_of_not_lt lo) h) fun lo =>
    Region.at_ite (fun h => Region.at_rom .gt1 (Nat.le_of_not_lt lo) h) fun _ =>
    Region.at_ite (fun _ => ⟨by omega, by omega⟩) fun _ =>
    Region.at_ite (fun h => .inr (.inr (.inl ⟨by omega, h⟩))) fun lo =>
    Region.at_ite (fun h => Region.at_rom .sgt (Nat.le_of_not_lt lo) h) fun h =>
    .inr (.inr (.inr (Nat.le_of_not_lt h)))

/-- No word address is in two regions, nor twice in one: in each pair of regions the windows are
disjoint intervals, or the word number is the distance from the window's first address. -/
theorem Region.At.unique {r r' : Region} {a : Nat} (h : r.At a) (h' : r'.At a) : r = r' := by
  cases r <;> cases r' <;>
    grind [Region.At, OperandReg.base, AffineRom.base, AffineRom.slots, cases OperandReg,
      cases AffineRom]

/-- The register map, both ways: the one fact about `regionOf` that the rest cites. -/
theorem regionOf_eq_iff (wa : WordAddr) (r : Region) : regionOf wa = r ↔ r.At wa.toNat :=
  ⟨fun h => h ▸ regionOf_at wa, fun h => (regionOf_at wa).unique h⟩

theorem regionOf_eq_reserved_iff (wa : WordAddr) :
    regionOf wa = .reserved ↔
      (0x002 ≤ wa.toNat ∧ wa.toNat < 0x008) ∨ (0x028 ≤ wa.toNat ∧ wa.toNat < 0x200) ∨
        (0x610 ≤ wa.toNat ∧ wa.toNat < 0x800) ∨ 0xC00 ≤ wa.toNat :=
  regionOf_eq_iff wa .reserved

theorem OperandReg.base_bounds (r : OperandReg) : 0x008 ≤ r.base ∧ r.base + 4 ≤ 0x020 := by
  cases r <;> decide

theorem toNat_of_regionOf_eq_operand {wa : WordAddr} {r : OperandReg} {j : Nat}
    (h : regionOf wa = .operand r j) : 0x008 ≤ wa.toNat ∧ wa.toNat < 0x020 := by
  obtain ⟨hj, ha⟩ := (regionOf_eq_iff ..).mp h
  have hb := r.base_bounds
  omega

/-- Every slot of an affine ROM's window is eight words (R69). -/
theorem regionOf_romWord (m : AffineRom) {i w : Nat} (hi : i < m.slots) (hw : w < 8) :
    regionOf (BitVec.ofNat 12 (m.base + 8 * i + w)) = .rom m i w := by
  have hend : m.base + 8 * m.slots < 2 ^ 12 := by cases m <;> decide
  rw [regionOf_eq_iff, BitVec.toNat_ofNat, Nat.mod_eq_of_lt (by omega)]
  exact ⟨hi, hw, rfl⟩

theorem regionOf_gfixWord {w : Nat} (hw : w < 16) :
    regionOf (BitVec.ofNat 12 (0x600 + w)) = .romFix w := by
  rw [regionOf_eq_iff, BitVec.toNat_ofNat, Nat.mod_eq_of_lt (by omega)]
  exact ⟨hw, rfl⟩

/-! ### Words that no write changes (R64, R244) -/

theorem hostRead_reserved (cfg : Cfg) (s : State) {wa : WordAddr} (h : regionOf wa = .reserved) :
    hostRead cfg wa s = 0 := by
  simp only [hostRead, h]

/-- Outside `CMD`, `STATUS` and the operand words a write is an address error, busy or not. -/
theorem hostWrite_eq_raiseErrAddr {wa : WordAddr} (v : Limb) (s : State)
    (h : (0x002 ≤ wa.toNat ∧ wa.toNat < 0x008) ∨ 0x020 ≤ wa.toNat) :
    hostWrite wa v s = raiseErrAddr s := by
  have notOperand : ∀ r j, regionOf wa ≠ .operand r j := fun r j hr => by
    have := toNat_of_regionOf_eq_operand hr
    omega
  obtain ⟨hr, -⟩ | ⟨hr, -⟩ | ⟨r, j, hr, -⟩ | ⟨r, j, hr, -⟩ | herr := hostWrite_cases wa v s
  · have ha : wa.toNat = 0x000 := (regionOf_eq_iff ..).mp hr
    omega
  · have ha : wa.toNat = 0x001 := (regionOf_eq_iff ..).mp hr
    omega
  · exact absurd hr (notOperand r j)
  · exact absurd hr (notOperand r j)
  · exact herr

/-- Settles O10: the address fixes the region, and the region fixes what the access does. -/
theorem readOnlyAndReservedWords : Obligations.ReadOnlyAndReservedWords := by
  refine ⟨fun s wa v h => ?_, fun cfg s wa h => ?_, fun cfg s wa => ?_⟩
  · exact hostWrite_eq_raiseErrAddr v s h
  · exact hostRead_reserved cfg s ((regionOf_eq_reserved_iff wa).mpr h)
  · exact ⟨receive_errOp .., receive_errBusy .., receive_errAddr ..⟩

/-! ### The words of a table entry (R69) -/

theorem affineWord_x (e : Affine) {j : Nat} (hj : j < 4) : affineWord e j = limb e.x j := by
  simp [affineWord, hj]

theorem affineWord_y (e : Affine) (j : Nat) : affineWord e (4 + j) = limb e.y j := by
  simp [affineWord]

theorem ecptWord_x (e : Ecpt) {j : Nat} (hj : j < 4) : ecptWord e j = limb e.x j := by
  simp [ecptWord, hj]

theorem ecptWord_y (e : Ecpt) {j : Nat} (hj : j < 4) : ecptWord e (4 + j) = limb e.y j := by
  simp [ecptWord, show 4 + j < 8 by omega]

theorem ecptWord_t (e : Ecpt) {j : Nat} (hj : j < 4) : ecptWord e (8 + j) = limb e.t j := by
  simp [ecptWord, show ¬ 8 + j < 4 by omega, show 8 + j < 12 by omega]

theorem ecptWord_z (e : Ecpt) (j : Nat) : ecptWord e (12 + j) = limb e.z j := by
  simp [ecptWord, show ¬ 12 + j < 4 by omega, show ¬ 12 + j < 8 by omega]

@[simp] theorem gfix_t (cfg : Cfg) : (gfix cfg).t = cfg.genFixT := rfl

@[simp] theorem gfix_z (cfg : Cfg) : (gfix cfg).z = 1 := rfl

/-- The limbs of 1 are `(1, 0, 0, 0)`. -/
theorem limb_one {j : Nat} (hj : j < 4) : limb 1 j = if j = 0 then 1 else 0 := by
  interval_cases j <;> decide

/-! ### Reads of the ROM windows (R69) -/

theorem hostRead_romWord (cfg : Cfg) (s : State) (m : AffineRom) {i w : Nat} (hi : i < m.slots)
    (hw : w < 8) :
    hostRead cfg (BitVec.ofNat 12 (m.base + 8 * i + w)) s = affineWord (romEntry cfg m i) w := by
  simp only [hostRead, regionOf_romWord m hi hw]

theorem hostRead_gfixWord (cfg : Cfg) (s : State) {w : Nat} (hw : w < 16) :
    hostRead cfg (BitVec.ofNat 12 (0x600 + w)) s = ecptWord (gfix cfg) w := by
  simp only [hostRead, regionOf_gfixWord hw]

theorem hostRead_rom_x (cfg : Cfg) (s : State) (m : AffineRom) {i j : Nat} (hi : i < m.slots)
    (hj : j < 4) :
    hostRead cfg (BitVec.ofNat 12 (m.base + 8 * i + j)) s = limb (romEntry cfg m i).x j := by
  rw [hostRead_romWord cfg s m hi (by omega), affineWord_x _ hj]

theorem hostRead_rom_y (cfg : Cfg) (s : State) (m : AffineRom) {i j : Nat} (hi : i < m.slots)
    (hj : j < 4) :
    hostRead cfg (BitVec.ofNat 12 (m.base + 8 * i + 4 + j)) s = limb (romEntry cfg m i).y j := by
  rw [Nat.add_assoc _ 4 j, hostRead_romWord cfg s m hi (by omega), affineWord_y]

theorem hostRead_gfix_x (cfg : Cfg) (s : State) {j : Nat} (hj : j < 4) :
    hostRead cfg (BitVec.ofNat 12 (0x600 + j)) s = limb (gfix cfg).x j := by
  rw [hostRead_gfixWord cfg s (by omega), ecptWord_x _ hj]

theorem hostRead_gfix_y (cfg : Cfg) (s : State) {j : Nat} (hj : j < 4) :
    hostRead cfg (BitVec.ofNat 12 (0x604 + j)) s = limb (gfix cfg).y j := by
  rw [show 0x604 + j = 0x600 + (4 + j) by omega, hostRead_gfixWord cfg s (by omega), ecptWord_y _ hj]

theorem hostRead_gfix_t (cfg : Cfg) (s : State) {j : Nat} (hj : j < 4) :
    hostRead cfg (BitVec.ofNat 12 (0x608 + j)) s = limb cfg.genFixT j := by
  rw [show 0x608 + j = 0x600 + (8 + j) by omega, hostRead_gfixWord cfg s (by omega),
    ecptWord_t _ hj, gfix_t]

theorem hostRead_gfix_z (cfg : Cfg) (s : State) {j : Nat} (hj : j < 4) :
    hostRead cfg (BitVec.ofNat 12 (0x60C + j)) s = if j = 0 then 1 else 0 := by
  rw [show 0x60C + j = 0x600 + (12 + j) by omega, hostRead_gfixWord cfg s (by omega), ecptWord_z,
    gfix_z, limb_one hj]

/-- Settles O13: one read lemma for each coordinate, at each of the ROMs. -/
theorem romWindowLayout : Obligations.RomWindowLayout := by
  refine fun cfg s j hj => ⟨fun i hi => ?_, fun i hi => ?_, ?_⟩
  · exact ⟨hostRead_rom_x cfg s .gt0 hi hj, hostRead_rom_y cfg s .gt0 hi hj,
      hostRead_rom_x cfg s .gt1 hi hj, hostRead_rom_y cfg s .gt1 hi hj⟩
  · exact ⟨hostRead_rom_x cfg s .sgt hi hj, hostRead_rom_y cfg s .sgt hi hj⟩
  · exact ⟨hostRead_gfix_x cfg s hj, hostRead_gfix_y cfg s hj, hostRead_gfix_t cfg s hj,
      hostRead_gfix_z cfg s hj⟩

end Sys2Proof.Machine
end


section
/-! PROOFS. The command word (spec 30_encoding.md R80 to R87): its fields, the one word of each command,
and the words that are no command's. -/

namespace Sys2Proof

/-! ### A word and its fields (R80) -/

theorem wordOfFields_fieldsOfWord (w : Limb) : wordOfFields (fieldsOfWord w) = w := by
  ext i hi
  simp only [wordOfFields, fieldsOfWord, ← BitVec.getLsbD_eq_getElem, BitVec.getLsbD_append,
    BitVec.getLsbD_extractLsb', BitVec.getLsbD_ofBool]
  grind

theorem fieldsOfWord_encode (i : Instr) : fieldsOfWord (encode i) = i.fields := by
  cases i with
  | mulGen mc => cases mc <;> rfl
  | _ => rfl

theorem fieldsOfWord_eq_fields_iff (w : Limb) (i : Instr) : fieldsOfWord w = i.fields ↔ w = encode i :=
  ⟨fun h => by rw [encode, ← h, wordOfFields_fieldsOfWord], fun h => h ▸ fieldsOfWord_encode i⟩

/-! ### Legal fields are the fields of a command (R82, R86) -/

theorem CommandWord.wellFormed_iff (f : CommandWord) :
    f.wellFormed = true ↔
      (1 ≤ f.op.toNat ∧ f.op.toNat ≤ 5) ∧ f.zeroLow = 0 ∧ f.zeroHigh = 0 ∧
        (f.mc = true → f.op = 3) := by
  cases h : f.mc <;> simp [wellFormed, opcodeOk, lowOk, highOk, cofactorOk, h, and_assoc]

theorem Instr.wellFormed_eq_true : ∀ i : Instr, i.wellFormed = true
  | .maskScalar => Laws.FieldsLegal.maskScalar
  | .mul => Laws.FieldsLegal.mul
  | .mulGen mc => Laws.FieldsLegal.mulGen mc
  | .simul => Laws.FieldsLegal.simul
  | .simulGen => Laws.FieldsLegal.simulGen

theorem instrOfFields_fields (i : Instr) : instrOfFields i.fields = .ok i := by
  cases i <;> rfl

theorem Instr.fields_injective : Function.Injective Instr.fields := fun i j h => by
  simpa only [instrOfFields_fields, Except.ok.injEq] using congrArg instrOfFields h

/-- Each of the five opcodes has its command, and `MC` is free for `MUL_GEN` alone. -/
theorem CommandWord.wellFormed_iff_exists (f : CommandWord) :
    f.wellFormed = true ↔ ∃ i : Instr, f = i.fields := by
  refine ⟨fun h => ?_, fun ⟨i, h⟩ => h ▸ i.wellFormed_eq_true⟩
  obtain ⟨op, zeroLow, mc, zeroHigh⟩ := f
  obtain ⟨⟨hlo, hhi⟩, rfl, rfl, hmc⟩ := (wellFormed_iff _).mp h
  have isOpcode : op = 1 ∨ op = 2 ∨ op = 3 ∨ op = 4 ∨ op = 5 := by
    simp only at hlo hhi
    bv_omega
  have noCofactor : op ≠ 3 → mc = false := fun h => by simpa using mt hmc h
  obtain rfl | rfl | rfl | rfl | rfl := isOpcode
  · exact ⟨.maskScalar, by rw [noCofactor (by decide)]; rfl⟩
  · exact ⟨.mul, by rw [noCofactor (by decide)]; rfl⟩
  · exact ⟨.mulGen mc, rfl⟩
  · exact ⟨.simul, by rw [noCofactor (by decide)]; rfl⟩
  · exact ⟨.simulGen, by rw [noCofactor (by decide)]; rfl⟩

/-! ### Decoding (R82, R86) -/

/-- A word whose fields pass the four checks is read by its opcode, and a failed check is an error. -/
theorem decodeWord_cases (w : Limb) :
    ((fieldsOfWord w).wellFormed = true ∧ decodeWord w = instrOfFields (fieldsOfWord w)) ∨
      ((fieldsOfWord w).wellFormed = false ∧ ∃ r, decodeWord w = .error r) := by
  simp only [decodeWord, CommandWord.wellFormed]
  cases (fieldsOfWord w).opcodeOk with
  | false => exact .inr ⟨rfl, _, rfl⟩
  | true =>
    cases (fieldsOfWord w).lowOk with
    | false => exact .inr ⟨rfl, _, rfl⟩
    | true =>
      cases (fieldsOfWord w).highOk with
      | false => exact .inr ⟨rfl, _, rfl⟩
      | true =>
        cases (fieldsOfWord w).cofactorOk with
        | false => exact .inr ⟨rfl, _, rfl⟩
        | true => exact .inl ⟨rfl, rfl⟩

/-- The one fact about the decoder that the rest cites. -/
theorem decodeWord_eq_ok_iff (w : Limb) (i : Instr) : decodeWord w = .ok i ↔ w = encode i := by
  rw [← fieldsOfWord_eq_fields_iff]
  obtain ⟨legal, hd⟩ | ⟨illegal, r, hd⟩ := decodeWord_cases w
  · obtain ⟨j, hj⟩ := (CommandWord.wellFormed_iff_exists _).mp legal
    rw [hd, hj, instrOfFields_fields, Except.ok.injEq, Instr.fields_injective.eq_iff]
  · have noCommand : fieldsOfWord w ≠ i.fields := fun h => by
      rw [h] at illegal
      exact absurd i.wellFormed_eq_true (by simpa [Instr.wellFormed] using illegal)
    simp [hd, noCommand]

theorem exists_decodeWord_eq_ok_iff_wellFormed (w : Limb) :
    (∃ i, decodeWord w = .ok i) ↔ (fieldsOfWord w).wellFormed = true := by
  simp only [CommandWord.wellFormed_iff_exists, decodeWord_eq_ok_iff, fieldsOfWord_eq_fields_iff]

/-! ### The words of the opcode map (R82) -/

/-- `MC` is bit 8, and `MUL_GEN` leaves it out of the mask. -/
theorem eq_encode_mulGen_iff (w : Limb) (mc : Bool) :
    w = encode (.mulGen mc) ↔ w &&& 0xFFFFFFFFFFFFFEFF#64 = 0x3#64 ∧ w.getLsbD 8 = mc := by
  constructor
  · rintro rfl
    cases mc <;> decide
  · rintro ⟨hmatch, hmc⟩
    calc w = w &&& (0xFFFFFFFFFFFFFEFF#64 ||| BitVec.twoPow 64 8) :=
          (BitVec.and_allOnes (x := w)).symm
      _ = 0x3#64 ||| if mc then BitVec.twoPow 64 8 else 0#64 := by
          rw [BitVec.and_or_distrib_left, hmatch, BitVec.and_twoPow, hmc]
      _ = encode (.mulGen mc) := by cases mc <;> rfl

theorem exists_decodeWord_eq_ok_iff_mem (w : Limb) :
    (∃ i, decodeWord w = .ok i) ↔ w ∈ [0x1#64, 0x2#64, 0x3#64, 0x103#64, 0x4#64, 0x5#64] := by
  simp only [decodeWord_eq_ok_iff]
  constructor
  · rintro ⟨i, rfl⟩
    cases i with
    | mulGen mc => cases mc <;> decide
    | _ => decide
  · intro h
    simp only [List.mem_cons, List.not_mem_nil, or_false] at h
    obtain rfl | rfl | rfl | rfl | rfl | rfl := h
    · exact ⟨.maskScalar, rfl⟩
    · exact ⟨.mul, rfl⟩
    · exact ⟨.mulGen false, rfl⟩
    · exact ⟨.mulGen true, rfl⟩
    · exact ⟨.simul, rfl⟩
    · exact ⟨.simulGen, rfl⟩

/-- Settles O1: a command has one word but for `MC`, so the mask of every other row is all ones. -/
theorem legalWordsAreTheTable : Obligations.LegalWordsAreTheTable := by
  intro w
  have fullMask : w &&& 0xFFFFFFFFFFFFFFFF#64 = w := BitVec.and_allOnes
  rw [fullMask]
  refine ⟨decodeWord_eq_ok_iff w .maskScalar, decodeWord_eq_ok_iff w .mul, fun mc => ?_,
    decodeWord_eq_ok_iff w .simul, decodeWord_eq_ok_iff w .simulGen, ?_⟩
  · exact (decodeWord_eq_ok_iff w _).trans (eq_encode_mulGen_iff w mc)
  · simpa using exists_decodeWord_eq_ok_iff_mem w

/-! ### Illegal words (R86, R242) -/

/-- A word fails one of the four checks exactly when it has one of the causes R86 lists. -/
theorem not_wellFormed_iff (w : Limb) :
    ¬ (fieldsOfWord w).wellFormed = true ↔
      w.extractLsb' 0 4 = 0#4 ∨ 6 ≤ (w.extractLsb' 0 4).toNat ∨ w.extractLsb' 4 4 ≠ 0#4 ∨
        w.extractLsb' 9 55 ≠ 0#55 ∨ (w.getLsbD 8 = true ∧ w.extractLsb' 0 4 ≠ 3#4) := by
  have opZero : w.extractLsb' 0 4 = 0#4 ↔ ¬ 1 ≤ (w.extractLsb' 0 4).toNat := by bv_omega
  have opHigh : 6 ≤ (w.extractLsb' 0 4).toNat ↔ ¬ (w.extractLsb' 0 4).toNat ≤ 5 := by omega
  rw [CommandWord.wellFormed_iff, opZero, opHigh]
  simp only [fieldsOfWord, BitVec.ofNat_eq_ofNat]
  tauto

namespace Machine

theorem hostWrite_cmd (w : Limb) (s : State) : hostWrite 0x000#12 w s = writeCmd w s := rfl

/-- An illegal word written while not busy (R242). -/
theorem hostWrite_cmd_of_illegal {w : Limb} {s : State} (idle : s.busy = false)
    (illegal : ∀ i, decodeWord w ≠ .ok i) : hostWrite 0x000#12 w s = raiseErrOp s := by
  rw [hostWrite_cmd]
  obtain ⟨busy, -⟩ | ⟨i, -, legal, -⟩ | ⟨r, -, -, refused⟩ := writeCmd_cases w s
  · rw [idle] at busy
    contradiction
  · exact absurd legal (illegal i)
  · exact refused

/-- Settles O2: the legal words, listed and as checks on the fields, and the refused write of `CMD`. -/
theorem illegalWordsSetErrOp : Obligations.IllegalWordsSetErrOp := by
  intro w s
  refine ⟨?_, ?_, hostWrite_cmd_of_illegal⟩
  · rw [← not_exists, exists_decodeWord_eq_ok_iff_mem]
  · rw [← not_exists, exists_decodeWord_eq_ok_iff_wellFormed, not_wellFormed_iff]

end Machine
end Sys2Proof
end

section
/-! PROOFS. The `STATUS` word (spec 30_encoding.md R84, R85): each of its bits, and what a write of it
does. -/

namespace Sys2Proof.Machine

theorem hostRead_status (cfg : Cfg) (s : State) : hostRead cfg 0x001#12 s = statusWord s := rfl

theorem hostWrite_status (v : Limb) (s : State) : hostWrite 0x001#12 v s = clearErrors v s := rfl

/-- The fields of R84, bit by bit. -/
theorem statusWord_getLsbD (s : State) (i : Nat) :
    (statusWord s).getLsbD i =
      if i = 0 then s.busy else if i = 1 then s.done else if i < 4 then false
      else if i < 8 then (phaseCode s.seq.phase).getLsbD (i - 4)
      else if i = 8 then s.errOp else if i = 9 then s.errBusy else if i = 10 then s.errAddr
      else false := by
  simp only [statusWord, BitVec.getLsbD_append, BitVec.getLsbD_ofBool, BitVec.ofNat_eq_ofNat,
    BitVec.getLsbD_zero]
  obtain belowFlags | fromFlags := Nat.lt_or_ge i 8
  · grind
  · grind

theorem statusWord_phase (s : State) : (statusWord s).extractLsb' 4 4 = phaseCode s.seq.phase := by
  ext i hi
  rw [BitVec.getElem_extractLsb', statusWord_getLsbD]
  grind

/-- Bits 3:2 and 63:11 are 0. -/
theorem statusWord_reserved (s : State) {start len : Nat}
    (h : (2 ≤ start ∧ start + len ≤ 4) ∨ 11 ≤ start) : (statusWord s).extractLsb' start len = 0 := by
  ext i hi
  rw [BitVec.getElem_extractLsb', statusWord_getLsbD]
  grind

theorem clearErrors_eq (v : Limb) (s : State) :
    clearErrors v s =
      { s with
        errOp := if v.getLsbD 8 then false else s.errOp
        errBusy := if v.getLsbD 9 then false else s.errBusy
        errAddr := if v.getLsbD 10 then false else s.errAddr } := by
  have keepUnless (a b : Bool) : (a && !b) = if b then false else a := by cases b <;> simp
  simp only [clearErrors, keepUnless]

/-- Settles O14: word `0x001` is the status word, read by its bits and written as `clearErrors`. -/
theorem statusWordFormat : Obligations.StatusWordFormat := by
  refine ⟨fun cfg s => ?_, fun s v => (hostWrite_status v s).trans (clearErrors_eq v s)⟩
  rw [hostRead_status]
  refine ⟨statusWord_getLsbD s 0, statusWord_getLsbD s 1,
    statusWord_reserved s (.inl (by decide)), ?_,
    statusWord_getLsbD s 8, statusWord_getLsbD s 9, statusWord_getLsbD s 10,
    statusWord_reserved s (.inr (by decide))⟩
  rw [statusWord_phase]
  cases s.seq.phase <;> rfl

end Sys2Proof.Machine
end

section
/-! PROOFS. The fetches of the table selectors (spec 43_table_selectors.md R130 to R132, R141): the mask of
a slot, what a masked scan accumulates, and what a variable-time fetch returns and reads. -/

namespace Sys2Proof.Machine

/-! ### The mask (R130) -/

/-- The arithmetic shift by 63 spreads the borrow over the word. -/
theorem sshiftRight_63_eq_ite_msb (x : Limb) :
    x.sshiftRight 63 = if x.msb then BitVec.allOnes 64 else 0 := by
  ext j hj
  have everyBit : (x.sshiftRight 63)[j] = x.msb := by
    rw [BitVec.getElem_sshiftRight]
    split
    · obtain rfl : j = 0 := by omega
      exact (BitVec.msb_eq_getLsbD_last x).symm
    · rfl
  rw [everyBit]
  cases x.msb with
  | false => simp
  | true => exact (BitVec.getElem_allOnes j hj).symm

/-- Below `2^63` a decrement borrows into the top bit exactly at 0. -/
theorem msb_sub_one_iff_eq_zero {d : Limb} (hd : d.toNat < 2 ^ 63) :
    (d - 1#64).msb = true ↔ d = 0#64 := by
  rw [BitVec.msb_eq_decide, decide_eq_true_iff]
  bv_omega

theorem ofNat_xor_toNat_lt {i k : Nat} (hi : i < 2 ^ 63) (hk : k < 2 ^ 63) :
    (BitVec.ofNat 64 i ^^^ BitVec.ofNat 64 k).toNat < 2 ^ 63 := by
  rw [BitVec.toNat_xor, BitVec.toNat_ofNat, BitVec.toNat_ofNat]
  exact Nat.xor_lt_two_pow (by omega) (by omega)

theorem ofNat_xor_eq_zero_iff {i k : Nat} (hi : i < 2 ^ 63) (hk : k < 2 ^ 63) :
    BitVec.ofNat 64 i ^^^ BitVec.ofNat 64 k = 0#64 ↔ i = k := by
  rw [BitVec.xor_eq_zero_iff]
  bv_omega

/-- Settles O45: the borrow of `(i ^ k) − 1` is set exactly when `i ^ k = 0`, and the shift spreads it. -/
theorem genMaskSelectsOneSlot : Obligations.GenMaskSelectsOneSlot := by
  intro i k hi hk
  rw [genMask, sshiftRight_63_eq_ite_msb]
  simp only [msb_sub_one_iff_eq_zero (ofNat_xor_toNat_lt hi hk), ofNat_xor_eq_zero_iff hi hk]

theorem genMask_self {k : Nat} (hk : k < 2 ^ 63) : genMask k k = BitVec.allOnes 64 :=
  (genMaskSelectsOneSlot k k hk hk).trans (if_pos rfl)

theorem genMask_of_ne {i k : Nat} (hi : i < 2 ^ 63) (hk : k < 2 ^ 63) (h : i ≠ k) :
    genMask i k = 0 :=
  (genMaskSelectsOneSlot i k hi hk).trans (if_neg h)

/-! ### The masked accumulation (R131) -/

theorem limb_zero (j : Nat) : limb 0#256 j = 0#64 := by
  simp [limb]

theorem xorMask_zero (acc entry : U256) : xorMask acc entry 0 = acc := by
  simp [xorMask, ofLimbs_limb]

theorem xorMask_allOnes (entry : U256) : xorMask 0 entry (BitVec.allOnes 64) = entry := by
  simp only [xorMask, limb_zero, BitVec.and_allOnes, BitVec.ofNat_eq_ofNat, BitVec.zero_xor,
    ofLimbs_limb]

theorem xorMaskEcpt_zero (acc entry : Ecpt) : xorMaskEcpt acc entry 0 = acc := by
  simp only [xorMaskEcpt, xorMask_zero]

theorem xorMaskEcpt_allOnes (entry : Ecpt) :
    xorMaskEcpt .zero entry (BitVec.allOnes 64) = entry := by
  simp only [xorMaskEcpt, Ecpt.zero, xorMask_allOnes]

theorem xorMaskAffine_zero (acc entry : Affine) : xorMaskAffine acc entry 0 = acc := by
  simp only [xorMaskAffine, xorMask_zero]

theorem xorMaskAffine_allOnes (entry : Affine) :
    xorMaskAffine .zero entry (BitVec.allOnes 64) = entry := by
  simp only [xorMaskAffine, Affine.zero, xorMask_allOnes]

/-! ### The scan (R132) -/

/-- After `n` slots the accumulator of a scan is the wanted entry if its slot was among them, and
untouched otherwise. `mix` is the `xor_mask` of the entry's format, and `read` sees no event. -/
theorem foldl_scan_fst {α : Type} {zero : α} {mix : α → α → Limb → α} {read : State → Nat → α}
    (ev : Nat → Event) {s : State}
    (mixNone : ∀ acc entry, mix acc entry 0 = acc)
    (mixWanted : ∀ entry, mix zero entry (BitVec.allOnes 64) = entry)
    (readAfter : ∀ es i, read (s.emitAll es) i = read s i)
    {n k : Nat} (hn : n ≤ 2 ^ 63) (hk : k < 2 ^ 63) :
    ((List.range n).foldl
        (fun acc i => (mix acc.1 (read acc.2 i) (genMask i k), acc.2.emit (ev i))) (zero, s)).1 =
      if k < n then read s k else zero := by
  induction n with
  | zero => rfl
  | succ n ih =>
    have hn' : n < 2 ^ 63 := by omega
    simp only [List.range_succ, List.foldl_append, List.foldl_cons, List.foldl_nil]
    rw [ih hn'.le, foldl_emit_snd (fun a t i => mix a (read t i) (genMask i k)), readAfter]
    obtain before | rfl | after := Nat.lt_trichotomy k n
    · rw [genMask_of_ne hn' hk before.ne', mixNone, if_pos before, if_pos (by omega)]
    · rw [genMask_self hk, if_neg (lt_irrefl k), mixWanted, if_pos (by omega)]
    · rw [genMask_of_ne hn' hk after.ne, mixNone, if_neg (by omega), if_neg (by omega)]

theorem scanTab_fst {k : Nat} (s : State) (hk : k < 8) : (scanTab k s).1 = s.slot k :=
  (foldl_scan_fst (read := State.slot) (Event.rd .tab) xorMaskEcpt_zero xorMaskEcpt_allOnes
    (fun _ _ => rfl) (by omega) (by omega)).trans (if_pos hk)

theorem AffineRom.slots_le : ∀ m : AffineRom, m.slots ≤ 128
  | .gt0 => by decide
  | .gt1 => by decide
  | .sgt => by decide

theorem scanRom_fst (cfg : Cfg) (m : AffineRom) {k : Nat} (s : State) (hk : k < m.slots) :
    (scanRom cfg m k s).1 = romEntry cfg m k :=
  have slots_le := m.slots_le
  (foldl_scan_fst (read := fun _ => romEntry cfg m) (Event.rd m.name) xorMaskAffine_zero
    xorMaskAffine_allOnes (fun _ _ => rfl) (by omega) (by omega)).trans (if_pos hk)

/-! ### The variable-time fetch (R141) -/

theorem fetchTab_fst (cfg : Cfg) (ct : Bool) {k : Nat} (s : State) (hk : k < 8) :
    (fetchTab cfg ct k s).1 = s.slot k := by
  cases ct with
  | false => rfl
  | true => rw [fetchTab, if_pos rfl, scanTab_fst s hk]

theorem fetchRomVt_fst (cfg : Cfg) (m : AffineRom) (k : Nat) (s : State) :
    (fetchRomVt cfg m k s).1 = romEntry cfg m k := rfl

/-- A `VT_TRACE` that names the wanted slot is read as it stands. -/
theorem vtSlots_of_mem {cfg : Cfg} {m : TableName} {k : Nat} (h : k ∈ cfg.vtTrace m k) :
    vtSlots cfg m k = cfg.vtTrace m k :=
  if_pos h

/-- Settles O47: both fetches return the slot; the reads are `vtSlots`, and `VT_TRACE` is free. -/
theorem variableTimeFetchOnlyChangesReads : Obligations.VariableTimeFetchOnlyChangesReads := by
  refine ⟨fun cfg k s hk => ⟨?_, ?_⟩, fun cfg k s hk => ⟨?_, ?_⟩, fun m k l hl => ?_⟩
  · rw [fetchTab_fst cfg false s hk, fetchTab_fst cfg true s hk]
  · exact ⟨vtSlots cfg .tab k, mem_vtSlots cfg .tab k, fetchTab_snd cfg false k s⟩
  · rw [fetchRomVt_fst, scanRom_fst cfg .sgt s hk]
  · exact ⟨vtSlots cfg .sgt k, mem_vtSlots cfg .sgt k, fetchRomVt_snd cfg .sgt k s⟩
  · exact ⟨{ Config.cfg with vtTrace := fun _ _ => l }, vtSlots_of_mem hl⟩

end Sys2Proof.Machine
end

section
/-! PROOFS. Acceptance of a command word (spec 45_drivers.md R172): what a write of `CMD` changes when
the word is accepted, and that a refused one changes an error flag alone. -/

namespace Sys2Proof

/-! ### What the bits of a legal word say (R80, R82) -/

/-- A legal word's bits 3:0 are its command's opcode and its bit 8 is the command's `MC`. -/
theorem opcode_cofactor_of_decodeWord {w : Limb} {i : Instr} (legal : decodeWord w = .ok i) :
    i.opcode = w.extractLsb' 0 4 ∧ i.cofactor = w.getLsbD 8 := by
  have hfields : fieldsOfWord w = i.fields :=
    (fieldsOfWord_eq_fields_iff w i).mpr ((decodeWord_eq_ok_iff w i).mp legal)
  exact ⟨(congrArg CommandWord.op hfields).symm, (congrArg CommandWord.mc hfields).symm⟩

/-- The drivers are the commands of opcodes 2 to 5. -/
theorem Instr.isDriver_iff (i : Instr) : i.isDriver = true ↔ i.opcode ∈ [2#4, 3#4, 4#4, 5#4] := by
  cases i <;> simp [isDriver, opcode]

namespace Machine

/-! ### What a write of `CMD` does (R172, R242, R243) -/

theorem hostWrite_cmd_of_busy {s : State} (w : Limb) (busy : s.busy = true) :
    hostWrite 0x000#12 w s = raiseErrBusy s := by
  rw [hostWrite_cmd]
  exact if_pos busy

theorem hostWrite_cmd_of_legal {w : Limb} {s : State} {i : Instr} (idle : s.busy = false)
    (legal : decodeWord w = .ok i) : hostWrite 0x000#12 w s = accept i s := by
  rw [hostWrite_cmd, writeCmd, idle, legal]
  rfl

/-- Settles O8: an accepted word latches its own bits, since they are its command's opcode and `MC`;
a refused one raises `ERR_BUSY` or `ERR_OP`. -/
theorem acceptanceLatchesTheCommand : Obligations.AcceptanceLatchesTheCommand := by
  refine ⟨fun s w i idle legal => ⟨[], ?_⟩, fun s w refused => ?_⟩
  · obtain ⟨hopcode, hcofactor⟩ := opcode_cofactor_of_decodeWord legal
    simp only [hostWrite_cmd_of_legal idle legal, accept, Instr.isDriver_iff, hopcode, hcofactor,
      Affine.zero]
  · obtain busy | idle := s.busy.eq_false_or_eq_true
    · exact ⟨s.errOp, true, hostWrite_cmd_of_busy w busy⟩
    · have illegal : ∀ i, decodeWord w ≠ .ok i := refused.resolve_left (by simp [idle])
      exact ⟨true, s.errBusy, hostWrite_cmd_of_illegal idle illegal⟩

end Machine
end Sys2Proof
end

section
/-! PROOFS. Writes refused while busy (spec 60_exceptions.md R243): the words a busy block drops, found
by the region of their address. -/

namespace Sys2Proof.Machine

theorem exists_regionOf_eq_operand_iff (wa : WordAddr) :
    (∃ r j, regionOf wa = .operand r j) ↔ 0x008 ≤ wa.toNat ∧ wa.toNat < 0x020 := by
  refine ⟨fun ⟨_, _, hr⟩ => toNat_of_regionOf_eq_operand hr, fun ⟨hlo, hhi⟩ => ?_⟩
  exact ⟨_, _, (regionOf_eq_iff ..).mpr (Region.at_operand hlo hhi)⟩

theorem hostWrite_operand_of_busy {wa : WordAddr} {r : OperandReg} {j : Nat} {s : State} (v : Limb)
    (hr : regionOf wa = .operand r j) (busy : s.busy = true) :
    hostWrite wa v s = raiseErrBusy s := by
  simp only [hostWrite, hr, busy, if_true]

/-- Settles O9: the address selects `CMD` or an operand word, and while busy a write of either is refused
before its value is looked at. -/
theorem busyWritesAreDropped : Obligations.BusyWritesAreDropped := by
  rintro s wa v busy (cmd | operand)
  · obtain rfl : wa = 0x000#12 := BitVec.eq_of_toNat_eq cmd
    exact hostWrite_cmd_of_busy v busy
  · obtain ⟨r, j, hr⟩ := (exists_regionOf_eq_operand_iff wa).mpr operand
    exact hostWrite_operand_of_busy v hr busy

end Sys2Proof.Machine
end

section
/-! PROOFS. Reset (spec 70_reset_and_hazards.md R260 to R262): the ROM words, which depend on no
register, and the value of every register after reset. -/

namespace Sys2Proof.Machine

/-! ### The ROM windows (R33, R63, R262) -/

/-- The two address ranges of R63 hold nothing but words of `GT0`, `GT1`, `GFIX` and `SGT`. -/
theorem regionOf_eq_rom_or_romFix {wa : WordAddr}
    (h : (0x200 ≤ wa.toNat ∧ wa.toNat < 0x610) ∨ (0x800 ≤ wa.toNat ∧ wa.toNat < 0xC00)) :
    (∃ m i w, regionOf wa = .rom m i w) ∨ ∃ w, regionOf wa = .romFix w := by
  have window (m : AffineRom) (lo : m.base ≤ wa.toNat) (hi : wa.toNat < m.base + 8 * m.slots) :
      ∃ m i w, regionOf wa = .rom m i w :=
    ⟨m, _, _, (regionOf_eq_iff ..).mpr (Region.at_rom m lo hi)⟩
  obtain ⟨lo, hi⟩ | ⟨lo, hi⟩ := h
  · obtain gt0 | gt0 := Nat.lt_or_ge wa.toNat 0x400
    · exact .inl (window .gt0 lo gt0)
    · obtain gt1 | gt1 := Nat.lt_or_ge wa.toNat 0x600
      · exact .inl (window .gt1 gt0 gt1)
      · exact .inr ⟨wa.toNat - 0x600, (regionOf_eq_iff ..).mpr ⟨by omega, by omega⟩⟩
  · exact .inl (window .sgt lo hi)

/-- The ROM is part of `Cfg` and no register: its words read the same in any two states. -/
theorem hostRead_rom_eq (cfg : Cfg) (s t : State) {wa : WordAddr}
    (h : (0x200 ≤ wa.toNat ∧ wa.toNat < 0x610) ∨ (0x800 ≤ wa.toNat ∧ wa.toNat < 0xC00)) :
    hostRead cfg wa t = hostRead cfg wa s := by
  obtain ⟨m, i, w, hr⟩ | ⟨w, hr⟩ := regionOf_eq_rom_or_romFix h <;> simp only [hostRead, hr]

/-- Settles O18: whatever the step did to the registers, a ROM word is read from none of them. -/
theorem romNeverChanges : Obligations.RomNeverChanges :=
  fun s t _ _ h => hostRead_rom_eq Config.cfg s t h

/-! ### The registers after reset (R261) -/

theorem reset_point (reg : PointReg) : State.reset.point reg = .zero := by
  cases reg <;> rfl

/-- Every slot of `TAB` is zero; an index past the table reads zero in any state. -/
theorem reset_slot (i : Nat) : State.reset.slot i = .zero := by
  simp only [State.slot, State.reset, Vector.getElem?_replicate]
  split <;> rfl

/-- Settles O19: the registers with a field of their own have the value `State.reset` names; the point
registers, the slots and the ROM have a lemma each. -/
theorem resetValues : Obligations.ResetValues := by
  refine ⟨rfl, rfl, rfl, rfl, rfl, rfl, rfl, rfl, rfl, rfl, reset_point, fun k _ => reset_slot k,
    rfl, rfl, rfl, rfl, rfl, rfl, rfl, rfl, rfl, rfl, rfl, rfl, rfl, rfl, ?_⟩
  exact fun cfg s _ h => hostRead_rom_eq cfg s (resetEvent s) h

end Sys2Proof.Machine
end

section
/-! PROOFS. The bytes of a command word (spec 20_memory.md R61; 30_encoding.md R80, R87): the decoder reads
eight bytes as one word and leaves the rest. -/

namespace Sys2Proof

theorem wordOfBytes_byteOfWord (w : Limb) :
    wordOfBytes (byteOfWord w 0) (byteOfWord w 1) (byteOfWord w 2) (byteOfWord w 3) (byteOfWord w 4)
      (byteOfWord w 5) (byteOfWord w 6) (byteOfWord w 7) = w := by
  ext i hi
  simp only [wordOfBytes, byteOfWord, ← BitVec.getLsbD_eq_getElem, BitVec.getLsbD_append,
    BitVec.getLsbD_extractLsb']
  grind

theorem bytesOfWord_wordOfBytes (b0 b1 b2 b3 b4 b5 b6 b7 : Byte) :
    bytesOfWord (wordOfBytes b0 b1 b2 b3 b4 b5 b6 b7) = [b0, b1, b2, b3, b4, b5, b6, b7] := by
  simp only [bytesOfWord, List.range, List.range.loop, List.map, List.cons.injEq, and_true]
  refine ⟨?_, ?_, ?_, ?_, ?_, ?_, ?_, ?_⟩ <;>
    (ext i hi
     simp only [wordOfBytes, byteOfWord, BitVec.getElem_extractLsb', BitVec.getLsbD_append]
     grind)

/-- Eight bytes are decoded as their word, whatever follows them. -/
theorem decode_bytesOfWord_append (w : Limb) (rest : List Byte) :
    decode (bytesOfWord w ++ rest) = (decodeWord w).map fun i => (i, rest) := by
  have head : decode (bytesOfWord w ++ rest) = decode (byteOfWord w 0 :: byteOfWord w 1 ::
    byteOfWord w 2 :: byteOfWord w 3 :: byteOfWord w 4 :: byteOfWord w 5 :: byteOfWord w 6 ::
    byteOfWord w 7 :: rest) := rfl
  rw [head, decode, wordOfBytes_byteOfWord]
  cases decodeWord w <;> rfl

/-- A list that decodes at all begins with the eight bytes of a word. -/
theorem exists_bytesOfWord_append_of_decode_eq_ok {bs rest : List Byte} {i : Instr}
    (h : decode bs = .ok (i, rest)) : ∃ w, bs = bytesOfWord w ++ rest := by
  unfold decode at h
  split at h
  next b0 b1 b2 b3 b4 b5 b6 b7 tail =>
    refine ⟨wordOfBytes b0 b1 b2 b3 b4 b5 b6 b7, ?_⟩
    split at h
    next j _ =>
      obtain ⟨-, rfl⟩ : j = i ∧ tail = rest := by simpa using h
      rw [bytesOfWord_wordOfBytes]
      rfl
    next => cases h
  next => cases h

/-- Settles O3: the bytes are those of one word, and a word decodes to a command exactly when it is the
command's own (`decodeWord_eq_ok_iff`). -/
theorem decodeInvertsEncode : Obligations.DecodeInvertsEncode := by
  intro bs rest i
  constructor
  · intro h
    obtain ⟨w, rfl⟩ := exists_bytesOfWord_append_of_decode_eq_ok h
    rw [decode_bytesOfWord_append] at h
    cases hw : decodeWord w with
    | error r =>
      rw [hw] at h
      cases h
    | ok j =>
      obtain rfl : j = i := by simpa [hw, Except.map] using h
      rw [(decodeWord_eq_ok_iff w j).mp hw, encodeBytes]
  · rintro rfl
    rw [encodeBytes, decode_bytesOfWord_append, (decodeWord_eq_ok_iff _ i).mpr rfl]
    rfl

/-- Settles O4: a table word is decoded through its bytes. -/
theorem tableWordsDecode : Obligations.TableWordsDecode := by
  refine ⟨?_, ?_, ?_, ?_, ?_, ?_, ?_, ?_, ?_, ?_, ?_⟩ <;> decide

end Sys2Proof
end

section
/-! PROOFS. One step of the machine (spec 45_drivers.md R170, R175; 20_memory.md R67;
70_reset_and_hazards.md R260): what each kind of turn does. -/

namespace Sys2Proof.Machine

/-! ### The next state, by the first turn (logs 2, 3) -/

theorem step_of_nil {s : State} (h : s.turns = []) : step s = coreStep Config.cfg s := by
  simp only [step, transition, h]

theorem step_of_cons {s : State} {t : Turn} {rest : List Turn} (h : s.turns = t :: rest) :
    step s = takeTurn Config.cfg t { s with turns := rest } := by
  simp only [step, transition, h]

theorem commandTurn_of_legal {w : Limb} {i : Instr} (s : State) (legal : decodeWord w = .ok i) :
    commandTurn w s = exec i s := by
  obtain ⟨j, hj, h⟩ | ⟨r, hr, -⟩ := commandTurn_cases w s
  · obtain rfl : j = i := by simpa [hj] using legal
    exact h
  · rw [hr] at legal
    cases legal

theorem commandTurn_of_illegal {w : Limb} {r : Reject} (s : State) (illegal : decodeWord w = .error r) :
    commandTurn w s = .next (writeCmd w s) := by
  obtain ⟨j, hj, -⟩ | ⟨-, -, h⟩ := commandTurn_cases w s
  · rw [hj] at illegal
    cases illegal
  · exact h

theorem tableWord_toNat (w : Limb) : tableWord 64 w.toNat = w := by
  rw [tableWord, Nat.mod_eq_of_lt w.isLt, BitVec.ofNat_toNat, BitVec.setWidth_eq]

/-- Settles O5: the first turn is the command word, and the word decodes to the command or to none. -/
theorem stepRunsTheDecodedCommand : Obligations.StepRunsTheDecodedCommand := by
  refine ⟨fun s w rest i ht legal => ?_, fun s w rest r ht illegal => ?_, fun s i => ?_⟩
  · rw [step_of_cons ht]
    exact commandTurn_of_legal _ legal
  · rw [step_of_cons ht, hostWrite_cmd]
    exact commandTurn_of_illegal _ illegal
  · have ht : (s.withFetchWord 64 (encode i).toNat).turns = .command (encode i) :: s.turns := by
      rw [State.withFetchWord, pushCommandWord, tableWord_toNat]
    rw [step_of_cons ht]
    exact commandTurn_of_legal s ((decodeWord_eq_ok_iff _ i).mpr rfl)

/-! ### A core step (R170) -/

theorem coreStep_idle (cfg : Cfg) {s : State} (idle : s.busy = false) : coreStep cfg s = .next s := by
  simp [coreStep, idle]

theorem coreStep_busy (cfg : Cfg) {s : State} {i : Instr} {m : MicroOp} (busy : s.busy = true)
    (hi : latched s.opl s.mcl = some i) (hm : (planOf i).microAt s.seq = some m) :
    coreStep cfg s = .next (microStep cfg (planOf i) m s) := by
  simp [coreStep, busy, hi, hm]

theorem microStep_of_next {cfg : Cfg} {p : Plan} {m : MicroOp} {s : State} {q : Seq}
    (h : p.next s.seq = some q) : microStep cfg p m s = { runMicro cfg m s with seq := q } := by
  simp only [microStep, h]

theorem microStep_of_last {cfg : Cfg} {p : Plan} {m : MicroOp} {s : State}
    (h : p.next s.seq = none) : microStep cfg p m s = complete (runMicro cfg m s) := by
  simp only [microStep, h]

/-- Settles O6: with no turn to take, the step is the core step, and `SEQ` decides how it ends. -/
theorem coreStepRunsOneMicroOperation : Obligations.CoreStepRunsOneMicroOperation := by
  refine ⟨fun s i m ht busy hi hm => ⟨_, ?_, fun q => microStep_of_next, microStep_of_last⟩,
    fun s ht idle => ?_⟩
  · rw [step_of_nil ht, coreStep_busy _ busy hi hm]
  · rw [step_of_nil ht, coreStep_idle _ idle]

/-! ### The other turns -/

/-- Settles O7: the whole-command turn of a busy core is the refused write of `CMD`. -/
theorem commandWhileBusyIsRefused : Obligations.CommandWhileBusyIsRefused := by
  intro i s busy
  rw [exec_eq, runCommand_busy _ _ _ _ busy]
  rfl

/-- Settles O17: a read turn is `receive`, which writes the host's list alone. -/
theorem readsChangeNothing : Obligations.ReadsChangeNothing := by
  intro s wa rest ht
  rw [step_of_cons ht]
  exact congrArg (fun v => Host.Outcome.next { s with turns := rest, reads := s.reads ++ [v] }) rfl

/-- Settles O20: the reset turn looks at no register. -/
theorem resetEventFromAnyState : Obligations.ResetEventFromAnyState := by
  intro s rest ht
  rw [step_of_cons ht]
  rfl

/-! ### Several steps -/

theorem run_zero (s : State) : Host.Core.run Sys2Proof.core 0 s = .next s := rfl

theorem run_succ_of_step {s t : State} (h : step s = .next t) (k : Nat) :
    Host.Core.run Sys2Proof.core (k + 1) s = Host.Core.run Sys2Proof.core k t := by
  have h' : Sys2Proof.core.step s = .next t := h
  simp only [Host.Core.run, h']

theorem exists_step_of_run_succ {s t : State} {k : Nat}
    (h : Host.Core.run Sys2Proof.core (k + 1) s = .next t) :
    ∃ u, step s = .next u ∧ Host.Core.run Sys2Proof.core k u = .next t := by
  simp only [Host.Core.run] at h
  split at h
  next u hu => exact ⟨u, hu, h⟩
  next => cases h
  next => cases h

theorem run_add {s t : State} {k : Nat} (h : Host.Core.run Sys2Proof.core k s = .next t) (l : Nat) :
    Host.Core.run Sys2Proof.core (k + l) s = Host.Core.run Sys2Proof.core l t := by
  induction k generalizing s with
  | zero =>
    obtain rfl : s = t := Host.Outcome.next.inj h
    rw [Nat.zero_add]
  | succ k ih =>
    obtain ⟨u, hu, h⟩ := exists_step_of_run_succ h
    rw [Nat.add_right_comm, run_succ_of_step hu]
    exact ih h

end Sys2Proof.Machine
end

section
/-! PROOFS. The operand and result words (spec 20_memory.md R60, R63, R65; 10_state.md R25, R46), read by
the host and written by it. -/

namespace Sys2Proof.Machine

/-! ### Reads of operand and result words -/

theorem hostRead_operand (cfg : Cfg) (s : State) {wa : WordAddr} {r : OperandReg} {j : Nat}
    (h : regionOf wa = .operand r j) : hostRead cfg wa s = limb (s.operandReg r) j := by
  simp only [hostRead, h]

theorem operandBase_toNat (r : OperandReg) : (operandBase r).toNat = r.base := by
  cases r <;> rfl

theorem regionOf_operandWord (r : OperandReg) {j : Nat} (hj : j < 4) :
    regionOf (operandBase r + BitVec.ofNat 12 j) = .operand r j := by
  have hb := r.base_bounds
  rw [regionOf_eq_iff, BitVec.toNat_add, BitVec.toNat_ofNat, operandBase_toNat,
    Nat.mod_eq_of_lt (show j < 2 ^ 12 by omega), Nat.mod_eq_of_lt (by omega)]
  exact ⟨hj, rfl⟩

theorem hostRead_operandWord (cfg : Cfg) (s : State) (r : OperandReg) {j : Nat} (hj : j < 4) :
    hostRead cfg (operandBase r + BitVec.ofNat 12 j) s = limb (s.operandReg r) j :=
  hostRead_operand cfg s (regionOf_operandWord r hj)

theorem regionOf_resultX {j : Nat} (hj : j < 4) :
    regionOf (0x020#12 + BitVec.ofNat 12 j) = .resultX j := by
  interval_cases j <;> rfl

theorem regionOf_resultY {j : Nat} (hj : j < 4) :
    regionOf (0x024#12 + BitVec.ofNat 12 j) = .resultY j := by
  interval_cases j <;> rfl

/-- Settles O12: the address of a word gives its register and limb. -/
theorem registerWordsReadLittleEndian : Obligations.RegisterWordsReadLittleEndian := by
  intro cfg s j hj
  refine ⟨rfl, hostRead_operandWord cfg s .ka hj, hostRead_operandWord cfg s .kb hj,
    hostRead_operandWord cfg s .px hj, hostRead_operandWord cfg s .py hj,
    hostRead_operandWord cfg s .qx hj, hostRead_operandWord cfg s .qy hj, ?_, ?_⟩
  · simp only [hostRead, regionOf_resultX hj, limb]
  · simp only [hostRead, regionOf_resultY hj, limb]

/-! ### Writes of operand words -/

theorem hostWrite_operand_of_idle {wa : WordAddr} {r : OperandReg} {j : Nat} {s : State} (v : Limb)
    (hr : regionOf wa = .operand r j) (idle : s.busy = false) :
    hostWrite wa v s = s.setOperandLimb r j v := by
  simp only [hostWrite, hr, idle, Bool.false_eq_true, if_false]

theorem operandReg_setOperandLimb (s : State) (r r' : OperandReg) (j : Nat) (v : Limb) :
    (s.setOperandLimb r j v).operandReg r' =
      if r' = r then setLimb (s.operandReg r) j v else s.operandReg r' := by
  cases r <;> cases r' <;> rfl

theorem statusWord_setOperandLimb (s : State) (r : OperandReg) (j : Nat) (v : Limb) :
    statusWord (s.setOperandLimb r j v) = statusWord s := by
  cases r <;> rfl

/-- The address of an operand word is that of its register and limb alone. -/
theorem eq_of_regionOf_eq_operand {wa wb : WordAddr} {r : OperandReg} {j : Nat}
    (ha : regionOf wa = .operand r j) (hb : regionOf wb = .operand r j) : wa = wb := by
  obtain ⟨-, ha⟩ := (regionOf_eq_iff ..).mp ha
  obtain ⟨-, hb⟩ := (regionOf_eq_iff ..).mp hb
  exact BitVec.eq_of_toNat_eq (ha.trans hb.symm)

/-- A written operand limb is seen at its own address and at no other. -/
theorem hostRead_setOperandLimb_of_ne (cfg : Cfg) (s : State) {wa wb : WordAddr} {r : OperandReg} {j : Nat}
    (v : Limb) (hr : regionOf wa = .operand r j) (hne : wb ≠ wa) :
    hostRead cfg wb (s.setOperandLimb r j v) = hostRead cfg wb s := by
  cases hb : regionOf wb with
  | operand r' j' =>
    rw [hostRead_operand _ _ hb, hostRead_operand _ _ hb, operandReg_setOperandLimb]
    split
    next same =>
      subst same
      have otherLimb : j ≠ j' := fun h => hne (eq_of_regionOf_eq_operand (h ▸ hb) hr)
      obtain ⟨hj', -⟩ := (regionOf_eq_iff ..).mp hb
      rw [limb_setLimb _ _ _ _ hj', if_neg otherLimb]
    next => rfl
  | status => simp only [hostRead, hb, statusWord_setOperandLimb]
  | _ => simp only [hostRead, hb, State.setOperandLimb_busy, State.setOperandLimb_r]

/-- Settles O11: the address names a register and a limb, and a write replaces that limb. -/
theorem operandWriteThenRead : Obligations.OperandWriteThenRead := by
  intro cfg s wa v idle hlo hhi
  obtain ⟨r, j, hr⟩ := (exists_regionOf_eq_operand_iff wa).mpr ⟨hlo, hhi⟩
  rw [hostWrite_operand_of_idle v hr idle]
  refine ⟨?_, fun wb hne => hostRead_setOperandLimb_of_ne cfg s v hr hne⟩
  obtain ⟨hj, -⟩ := (regionOf_eq_iff ..).mp hr
  rw [hostRead_operand _ _ hr, operandReg_setOperandLimb, if_pos rfl, limb_setLimb _ _ _ _ hj, if_pos rfl]

end Sys2Proof.Machine
end

section
/-! PROOFS. The micro-operations in closed form (spec 42_table_generators.md, 43_table_selectors.md,
45_drivers.md): what each table generator and selector writes and appends to the trace, and that no
micro-operation reads the control side of the state. -/

namespace Sys2Proof.Machine

/-! ### Selectors (43_table_selectors.md R133 to R139) -/

/-- The value of `AffineToExt` (R139). -/
def extOfAffine (c : Curve) (e : Affine) : Ecpt := ⟨e.x, e.y, c.feMul e.x e.y, c.feSetSmallk 1⟩

/-- The events of a masked scan of a ROM (R132). -/
def scanRomEvents (m : AffineRom) : List Event := (List.range m.slots).map (Event.rd m.name)

/-- The calls a comb selector makes on a fetched entry (R137, R138). -/
def expandCalls : List Event :=
  [.op .feMul [.entry], .op .feSetSmallk [], .op .ecCondNeg [.entry]]

theorem sel2_eq (cfg : Cfg) (index : Nat) (ct : Bool) (dest : PointReg) (s : State) :
    sel2 cfg index ct dest s =
      (s.emitAll (fetchTabEvents cfg ct (sel2Index s.s0 s.s1 index) ++
          [.op .ecCondNeg [.entry]])).setPoint dest
        (cfg.curve.ecCondNeg (sel2Neg s.s0 index) (s.slot (sel2Index s.s0 s.s1 index))) := by
  rw [sel2, condNegEntry_snd, fetchTab_snd, emitAll_emitAll, condNegEntry_fst,
    fetchTab_fst cfg ct s (sel2Index_lt ..)]

theorem sel4_eq (cfg : Cfg) (index : Nat) (dest : PointReg) (s : State) :
    sel4 cfg index dest s =
      (s.emitAll ((List.range 8).map (Event.rd .tab) ++ [.op .ecCondNeg [.entry]])).setPoint dest
        (cfg.curve.ecCondNeg (sel4Neg s.s0 index) (s.slot (sel4Index s.s1 s.s2 s.s3 index))) := by
  rw [sel4, condNegEntry_snd, scanTab_snd, emitAll_emitAll, condNegEntry_fst,
    scanTab_fst s (sel4Index_lt ..)]

/-- A comb index of tuning 72 is inside both of its ROMs. -/
theorem combIndex72_lt (rb : U256) (vp ep : Nat) : combIndex72 rb vp ep < 64 :=
  combIndex_lt rb 36 18 6 vp ep

theorem selcomb72Half_eq (cfg : Cfg) (m : AffineRom) (vp ep : Nat) (dest : PointReg) (s : State)
    (hm : m.slots = 64) :
    selcomb72Half cfg m vp ep dest s =
      (s.emitAll (scanRomEvents m ++ expandCalls)).setPoint dest
        (cfg.curve.ecCondNeg (combSign72 s.rb vp ep ^^ true)
          (extOfAffine cfg.curve (romEntry cfg m (combIndex72 s.rb vp ep)))) := by
  have inside : combIndex72 s.rb vp ep < m.slots := hm ▸ combIndex72_lt s.rb vp ep
  rw [selcomb72Half, condNegEntry_snd, affineToExt_snd, scanRom_snd, emitAll_emitAll, emitAll_emitAll,
    condNegEntry_fst, affineToExt_fst, scanRom_fst cfg m s inside]
  rfl

theorem selcomb72_eq (cfg : Cfg) (ep : Nat) (s : State) :
    selcomb72 cfg ep s =
      { s with
        ts := cfg.curve.ecCondNeg (combSign72 s.rb 0 ep ^^ true)
          (extOfAffine cfg.curve (romEntry cfg .gt0 (combIndex72 s.rb 0 ep)))
        tt := cfg.curve.ecCondNeg (combSign72 s.rb 1 ep ^^ true)
          (extOfAffine cfg.curve (romEntry cfg .gt1 (combIndex72 s.rb 1 ep)))
        trace := s.trace ++ (scanRomEvents .gt0 ++ expandCalls) ++
          (scanRomEvents .gt1 ++ expandCalls) } := by
  rw [selcomb72, selcomb72Half_eq _ _ _ _ _ _ rfl, selcomb72Half_eq _ _ _ _ _ _ rfl]
  rfl

theorem selcomb81_eq (cfg : Cfg) (ep : Nat) (s : State) :
    selcomb81 cfg ep s =
      { s with
        tt := cfg.curve.ecCondNeg ((combSign81 s.rb ep ^^ true) ^^ s.clsb)
          (extOfAffine cfg.curve (romEntry cfg .sgt (combIndex81 s.rb ep)))
        trace := s.trace ++ ((vtSlots cfg .sgt (combIndex81 s.rb ep)).map (Event.rd .sgt) ++
          expandCalls) } := by
  rw [selcomb81, condNegEntry_snd, affineToExt_snd, fetchRomVt_snd, emitAll_emitAll, emitAll_emitAll,
    condNegEntry_fst, affineToExt_fst, fetchRomVt_fst]
  rfl

/-! ### Table generators (42_table_generators.md R120, R122) -/

/-- The table `GENTAB2` builds from `A`, `B` (R120). -/
def gentab2Table (c : Curve) (A B : Ecpt) : Vector Ecpt 8 :=
  let a3 := c.ecAdd (c.ecDbl A) A
  let a3b := c.ecAdd a3 B
  let a3b2 := c.ecAdd a3b B
  let ab := c.ecAdd A B
  #v[a3, a3b, a3b2, c.ecAdd a3b2 B, A, c.ecAdd A (c.ecNeg B), c.ecAdd ab B, ab]

/-- The table `GENTAB4` builds from `A` to `D` (R122). -/
def gentab4Table (c : Curve) (A B C D : Ecpt) : Vector Ecpt 8 :=
  let b := c.ecAdd A B
  let bc := c.ecAdd b C
  let d := c.ecAdd A D
  #v[A, b, c.ecAdd A C, bc, d, c.ecAdd b D, c.ecAdd (c.ecAdd A C) D, c.ecAdd bc D]

theorem tab_tabWrite (i : Nat) (v : Ecpt) (s : State) :
    (tabWrite i v s).tab = s.tab.setIfInBounds i v := rfl

/-- The eight slots are the whole of `TAB`. -/
theorem tab_eq_of_slots {s : State} {v : Vector Ecpt 8}
    (h : ∀ k (hk : k < 8), s.slot k = v[k]) : s.tab = v := by
  refine Vector.ext fun k hk => ?_
  rw [← h k hk, State.slot, Vector.getElem?_eq_getElem hk, Option.getD_some]

theorem slot_tabWrite {i : Nat} (hi : i < 8) (v : Ecpt) (s : State) (k : Nat) :
    (tabWrite i v s).slot k = if i = k then v else s.slot k := by
  rw [State.slot, tab_tabWrite, Vector.getElem?_setIfInBounds, if_pos hi]
  split
  · rfl
  · rfl

theorem slot_copyBase {dst : Nat} (hdst : dst < 8) (s : State) (k : Nat) :
    (copyBase dst s).slot k = if dst = k then s.point .b0 else s.slot k :=
  slot_tabWrite hdst ..

theorem slot_addPointsToSlot (c : Curve) {dst : Nat} (hdst : dst < 8) (u v : PointReg) (s : State)
    (k : Nat) :
    (addPointsToSlot c dst u v s).slot k =
      if dst = k then c.ecAdd (s.point u) (s.point v) else s.slot k :=
  slot_tabWrite hdst ..

theorem slot_addSlotToSlot (c : Curve) {dst : Nat} (hdst : dst < 8) (src : Nat) (v : PointReg)
    (s : State) (k : Nat) :
    (addSlotToSlot c dst src v s).slot k =
      if dst = k then c.ecAdd (s.slot src) (s.point v) else s.slot k :=
  slot_tabWrite hdst ..

theorem slot_negateB1 (c : Curve) (s : State) (k : Nat) : (negateB1 c s).slot k = s.slot k := rfl

theorem slot_doubleB0 (c : Curve) (s : State) (k : Nat) : (doubleB0 c s).slot k = s.slot k := rfl

theorem point_copyBase (dst : Nat) (s : State) (r : PointReg) : (copyBase dst s).point r = s.point r := by
  cases r <;> rfl

theorem point_addPointsToSlot (c : Curve) (dst : Nat) (u v : PointReg) (s : State) (r : PointReg) :
    (addPointsToSlot c dst u v s).point r = s.point r := by
  cases r <;> rfl

theorem point_addSlotToSlot (c : Curve) (dst src : Nat) (v : PointReg) (s : State) (r : PointReg) :
    (addSlotToSlot c dst src v s).point r = s.point r := by
  cases r <;> rfl

theorem point_negateB1 (c : Curve) (s : State) (r : PointReg) :
    (negateB1 c s).point r = if r = .ts then c.ecNeg (s.point .b1) else s.point r := by
  cases r <;> rfl

theorem point_doubleB0 (c : Curve) (s : State) (r : PointReg) :
    (doubleB0 c s).point r = if r = .tt then c.ecDbl (s.point .b0) else s.point r := by
  cases r <;> rfl

theorem tab_gentab2 (c : Curve) (s : State) :
    (gentab2 c s).tab = gentab2Table c (s.point .b0) (s.point .b1) := by
  refine tab_eq_of_slots fun k hk => ?_
  interval_cases k <;>
    simp only [gentab2, gentab2Table, slot_addSlotToSlot, slot_addPointsToSlot, slot_copyBase,
      slot_doubleB0, point_addSlotToSlot, point_addPointsToSlot, point_copyBase, point_doubleB0,
      point_negateB1, Nat.reduceLT, Nat.reduceEqDiff, reduceCtorEq, if_true, if_false] <;>
    rfl

theorem tab_gentab4 (c : Curve) (s : State) :
    (gentab4 c s).tab =
      gentab4Table c (s.point .b0) (s.point .b1) (s.point .b2) (s.point .b3) := by
  refine tab_eq_of_slots fun k hk => ?_
  interval_cases k <;>
    simp only [gentab4, gentab4Table, slot_addSlotToSlot, slot_copyBase, point_addSlotToSlot,
      point_copyBase, Nat.reduceLT, Nat.reduceEqDiff, if_true, if_false] <;>
    rfl

/-- The events of `GENTAB2` (95_test_vectors.md 2.3). -/
def gentab2Events : List Event :=
  [.op .ecNeg [.point .b1], .op .ecSet [.point .b0], .wr 4, .op .ecAdd [.point .b0, .point .ts], .wr 5,
    .op .ecAdd [.point .b0, .point .b1], .wr 7, .rd .tab 7, .op .ecAdd [.slot 7, .point .b1], .wr 6,
    .op .ecDbl [.point .b0], .op .ecAdd [.point .tt, .point .b0], .wr 0,
    .rd .tab 0, .op .ecAdd [.slot 0, .point .b1], .wr 1, .rd .tab 1, .op .ecAdd [.slot 1, .point .b1],
    .wr 2, .rd .tab 2, .op .ecAdd [.slot 2, .point .b1], .wr 3]

/-- The events of `GENTAB4` (95_test_vectors.md 2.3). -/
def gentab4Events : List Event :=
  [.op .ecSet [.point .b0], .wr 0, .rd .tab 0, .op .ecAdd [.slot 0, .point .b1], .wr 1,
    .rd .tab 0, .op .ecAdd [.slot 0, .point .b2], .wr 2, .rd .tab 1, .op .ecAdd [.slot 1, .point .b2],
    .wr 3, .rd .tab 0, .op .ecAdd [.slot 0, .point .b3], .wr 4, .rd .tab 1,
    .op .ecAdd [.slot 1, .point .b3], .wr 5, .rd .tab 2, .op .ecAdd [.slot 2, .point .b3], .wr 6,
    .rd .tab 3, .op .ecAdd [.slot 3, .point .b3], .wr 7]

theorem trace_copyBase (dst : Nat) (s : State) :
    (copyBase dst s).trace = s.trace ++ [.op .ecSet [.point .b0], .wr dst] := by
  simp [copyBase]

theorem trace_addPointsToSlot (c : Curve) (dst : Nat) (u v : PointReg) (s : State) :
    (addPointsToSlot c dst u v s).trace =
      s.trace ++ [.op .ecAdd [.point u, .point v], .wr dst] := by
  simp [addPointsToSlot]

theorem trace_addSlotToSlot (c : Curve) (dst src : Nat) (v : PointReg) (s : State) :
    (addSlotToSlot c dst src v s).trace =
      s.trace ++ [.rd .tab src, .op .ecAdd [.slot src, .point v], .wr dst] := by
  simp [addSlotToSlot]

theorem trace_negateB1 (c : Curve) (s : State) :
    (negateB1 c s).trace = s.trace ++ [.op .ecNeg [.point .b1]] := rfl

theorem trace_doubleB0 (c : Curve) (s : State) :
    (doubleB0 c s).trace = s.trace ++ [.op .ecDbl [.point .b0]] := rfl

theorem trace_gentab2 (c : Curve) (s : State) : (gentab2 c s).trace = s.trace ++ gentab2Events := by
  simp [gentab2, gentab2Events, trace_addSlotToSlot, trace_addPointsToSlot, trace_copyBase,
    trace_negateB1, trace_doubleB0]

theorem trace_gentab4 (c : Curve) (s : State) : (gentab4 c s).trace = s.trace ++ gentab4Events := by
  simp [gentab4, gentab4Events, trace_addSlotToSlot, trace_copyBase]

/-- Nothing but `TAB`, the scratch registers and the trace differs: all a table generator writes. -/
def TableWork (s t : State) : Prop :=
  t = { s with tab := t.tab, ts := t.ts, tt := t.tt, trace := t.trace }

theorem TableWork.trans {s t u : State} (h : TableWork s t) (g : TableWork t u) : TableWork s u := by
  unfold TableWork at *
  rw [g, h]

theorem tableWork_copyBase (dst : Nat) (s : State) : TableWork s (copyBase dst s) := rfl

theorem tableWork_addPointsToSlot (c : Curve) (dst : Nat) (u v : PointReg) (s : State) :
    TableWork s (addPointsToSlot c dst u v s) := rfl

theorem tableWork_addSlotToSlot (c : Curve) (dst src : Nat) (v : PointReg) (s : State) :
    TableWork s (addSlotToSlot c dst src v s) := rfl

theorem tableWork_negateB1 (c : Curve) (s : State) : TableWork s (negateB1 c s) := rfl

theorem tableWork_doubleB0 (c : Curve) (s : State) : TableWork s (doubleB0 c s) := rfl

theorem tableWork_gentab2 (c : Curve) (s : State) : TableWork s (gentab2 c s) :=
  (tableWork_negateB1 ..).trans <| (tableWork_copyBase ..).trans <|
    (tableWork_addPointsToSlot ..).trans <| (tableWork_addPointsToSlot ..).trans <|
    (tableWork_addSlotToSlot ..).trans <| (tableWork_doubleB0 ..).trans <|
    (tableWork_addPointsToSlot ..).trans <| (tableWork_addSlotToSlot ..).trans <|
    (tableWork_addSlotToSlot ..).trans (tableWork_addSlotToSlot ..)

theorem tableWork_gentab4 (c : Curve) (s : State) : TableWork s (gentab4 c s) :=
  (tableWork_copyBase ..).trans <| (tableWork_addSlotToSlot ..).trans <|
    (tableWork_addSlotToSlot ..).trans <| (tableWork_addSlotToSlot ..).trans <|
    (tableWork_addSlotToSlot ..).trans <| (tableWork_addSlotToSlot ..).trans <|
    (tableWork_addSlotToSlot ..).trans (tableWork_addSlotToSlot ..)

theorem point_gentab2 (c : Curve) (s : State) (r : PointReg) :
    (gentab2 c s).point r =
      if r = .tt then c.ecDbl (s.point .b0) else if r = .ts then c.ecNeg (s.point .b1)
      else s.point r := by
  simp only [gentab2, point_addSlotToSlot, point_addPointsToSlot, point_copyBase, point_doubleB0,
    point_negateB1, reduceCtorEq, if_false]

theorem point_gentab4 (c : Curve) (s : State) (r : PointReg) : (gentab4 c s).point r = s.point r := by
  simp only [gentab4, point_addSlotToSlot, point_copyBase]

theorem gentab2_eq (c : Curve) (s : State) :
    gentab2 c s =
      { s with
        tab := gentab2Table c s.b0 s.b1, ts := c.ecNeg s.b1, tt := c.ecDbl s.b0
        trace := s.trace ++ gentab2Events } := by
  rw [tableWork_gentab2 c s, tab_gentab2, trace_gentab2, show (gentab2 c s).ts = _ from point_gentab2 c s .ts,
    show (gentab2 c s).tt = _ from point_gentab2 c s .tt]
  rfl

theorem gentab4_eq (c : Curve) (s : State) :
    gentab4 c s =
      { s with
        tab := gentab4Table c s.b0 s.b1 s.b2 s.b3, trace := s.trace ++ gentab4Events } := by
  rw [tableWork_gentab4 c s, tab_gentab4, trace_gentab4, show (gentab4 c s).ts = _ from point_gentab4 c s .ts,
    show (gentab4 c s).tt = _ from point_gentab4 c s .tt]
  rfl

/-! ### No micro-operation reads the control side (10_state.md R42, 60_exceptions.md R245) -/

/-- `s` with the sequencer, the status and the boundary of `c`. -/
def State.withControl (s c : State) : State :=
  { s with
    seq := c.seq, opl := c.opl, mcl := c.mcl, busy := c.busy, done := c.done, errOp := c.errOp
    errBusy := c.errBusy, errAddr := c.errAddr, turns := c.turns, reads := c.reads }

theorem setPoint_withControl (s c : State) (r : PointReg) (v : Ecpt) :
    (s.withControl c).setPoint r v = (s.setPoint r v).withControl c := by
  cases r <;> rfl

theorem emitAll_withControl (s c : State) (es : List Event) :
    (s.withControl c).emitAll es = (s.emitAll es).withControl c := rfl

theorem point_withControl (s c : State) (r : PointReg) : (s.withControl c).point r = s.point r := by
  cases r <;> rfl

theorem combrec_withControl (cfg : Cfg) (d l : Nat) (s c : State) :
    combrec cfg d l (s.withControl c) = (combrec cfg d l s).withControl c := rfl

theorem runMicro_withControl (cfg : Cfg) (m : MicroOp) (s c : State) :
    runMicro cfg m (s.withControl c) = (runMicro cfg m s).withControl c := by
  cases m with
  | decomp k pair => cases pair <;> cases k <;> rfl
  | prep a pair => cases pair <;> cases a <;> rfl
  | combrec72 => exact combrec_withControl ..
  | combrec81 => exact combrec_withControl ..
  | gentab2 => simp only [runMicro, gentab2_eq]; rfl
  | gentab4 => simp only [runMicro, gentab4_eq]; rfl
  | sel2 index ct dest => simp only [runMicro, sel2_eq]; cases dest <;> rfl
  | sel4 index dest => simp only [runMicro, sel4_eq]; cases dest <;> rfl
  | selcomb72 ep => simp only [runMicro, selcomb72_eq]; rfl
  | selcomb81 ep => simp only [runMicro, selcomb81_eq]; rfl
  | add u v => cases u <;> cases v <;> rfl
  | _ => rfl

theorem runMicros_withControl (cfg : Cfg) (ms : List MicroOp) (s c : State) :
    runMicros cfg ms (s.withControl c) = (runMicros cfg ms s).withControl c := by
  induction ms generalizing s with
  | nil => rfl
  | cons m ms ih => rw [runMicros_cons, runMicro_withControl, ih, runMicros_cons]

end Sys2Proof.Machine
end

section
/-! PROOFS. A run of micro-operations and the control side: changing the sequencer, the error flags or the
boundary beforehand changes nothing else afterwards. -/

namespace Sys2Proof.Machine

theorem Keeps.withControl_eq {s t : State} (h : Keeps s t) : t.withControl s = t := by
  simp only [State.withControl, ← h.seq, ← h.opl, ← h.mcl, ← h.busy, ← h.done, ← h.errOp, ← h.errBusy,
    ← h.errAddr, ← h.turns, ← h.reads]

theorem runMicros_setSeq (cfg : Cfg) (ms : List MicroOp) (s : State) (q : Seq) :
    runMicros cfg ms { s with seq := q } = { runMicros cfg ms s with seq := q } :=
  calc runMicros cfg ms { s with seq := q }
    _ = (runMicros cfg ms s).withControl { s with seq := q } :=
      runMicros_withControl cfg ms s { s with seq := q }
    _ = { (runMicros cfg ms s).withControl s with seq := q } := rfl
    _ = { runMicros cfg ms s with seq := q } := by rw [(runMicros_keeps cfg ms s).withControl_eq]

theorem runMicros_setTurns (cfg : Cfg) (ms : List MicroOp) (s : State) (ts : List Turn) :
    runMicros cfg ms { s with turns := ts } = { runMicros cfg ms s with turns := ts } :=
  calc runMicros cfg ms { s with turns := ts }
    _ = (runMicros cfg ms s).withControl { s with turns := ts } :=
      runMicros_withControl cfg ms s { s with turns := ts }
    _ = { (runMicros cfg ms s).withControl s with turns := ts } := rfl
    _ = { runMicros cfg ms s with turns := ts } := by rw [(runMicros_keeps cfg ms s).withControl_eq]

theorem runMicros_setErrors (cfg : Cfg) (ms : List MicroOp) (s : State) (a b c : Bool) :
    runMicros cfg ms { s with errOp := a, errBusy := b, errAddr := c } =
      { runMicros cfg ms s with errOp := a, errBusy := b, errAddr := c } :=
  calc runMicros cfg ms { s with errOp := a, errBusy := b, errAddr := c }
    _ = (runMicros cfg ms s).withControl { s with errOp := a, errBusy := b, errAddr := c } :=
      runMicros_withControl cfg ms s { s with errOp := a, errBusy := b, errAddr := c }
    _ = { (runMicros cfg ms s).withControl s with errOp := a, errBusy := b, errAddr := c } := rfl
    _ = { runMicros cfg ms s with errOp := a, errBusy := b, errAddr := c } := by
      rw [(runMicros_keeps cfg ms s).withControl_eq]

theorem runMicro_setErrors (cfg : Cfg) (m : MicroOp) (s : State) (a b c : Bool) :
    runMicro cfg m { s with errOp := a, errBusy := b, errAddr := c } =
      { runMicro cfg m s with errOp := a, errBusy := b, errAddr := c } :=
  runMicros_setErrors cfg [m] s a b c

end Sys2Proof.Machine
end

section
/-! PROOFS. Which registers a micro-operation reads and writes (spec 41_glv_sac_recoders.md to
45_drivers.md): the frame of a run, and that its results are functions of the registers it reads. -/

namespace Sys2Proof.Machine

/-! ### The data registers (10_state.md R21 to R37) -/

/-- The data registers by name. -/
inductive Reg where
  | ka | kb | p | q | r | s0 | s1 | s2 | s3 | rb | b0 | b1 | b2 | b3 | x | ts | tt | tab
  | sg0 | sg1 | sg2 | sg3 | lsb | clsb
deriving DecidableEq

/-- The register of a scalar operand. -/
def ScalarReg.reg : ScalarReg → Reg
  | .ka => .ka
  | .kb => .kb

/-- The register of a point operand. -/
def OperandPoint.reg : OperandPoint → Reg
  | .p => .p
  | .q => .q

/-- The register of a point register's name. -/
def PointReg.reg : PointReg → Reg
  | .b0 => .b0
  | .b1 => .b1
  | .b2 => .b2
  | .b3 => .b3
  | .x => .x
  | .ts => .ts
  | .tt => .tt

/-- Two states hold the same value in a register. -/
def SameIn (s t : State) : Reg → Prop
  | .ka => s.ka = t.ka
  | .kb => s.kb = t.kb
  | .p => s.p = t.p
  | .q => s.q = t.q
  | .r => s.r = t.r
  | .s0 => s.s0 = t.s0
  | .s1 => s.s1 = t.s1
  | .s2 => s.s2 = t.s2
  | .s3 => s.s3 = t.s3
  | .rb => s.rb = t.rb
  | .b0 => s.b0 = t.b0
  | .b1 => s.b1 = t.b1
  | .b2 => s.b2 = t.b2
  | .b3 => s.b3 = t.b3
  | .x => s.x = t.x
  | .ts => s.ts = t.ts
  | .tt => s.tt = t.tt
  | .tab => s.tab = t.tab
  | .sg0 => s.sg0 = t.sg0
  | .sg1 => s.sg1 = t.sg1
  | .sg2 => s.sg2 = t.sg2
  | .sg3 => s.sg3 = t.sg3
  | .lsb => s.lsb = t.lsb
  | .clsb => s.clsb = t.clsb

theorem SameIn.refl (s : State) (reg : Reg) : SameIn s s reg := by cases reg <;> rfl

theorem SameIn.symm {s t : State} {reg : Reg} (h : SameIn s t reg) : SameIn t s reg := by
  cases reg <;> exact Eq.symm h

theorem SameIn.trans {s t u : State} {reg : Reg} (h : SameIn s t reg) (g : SameIn t u reg) : SameIn s u reg := by
  cases reg <;> exact Eq.trans h g

theorem sameIn_scalar_reg (s t : State) (k : ScalarReg) :
    SameIn s t k.reg ↔ s.scalar k = t.scalar k := by
  cases k <;> exact Iff.rfl

theorem sameIn_operand_reg (s t : State) (a : OperandPoint) :
    SameIn s t a.reg ↔ s.operand a = t.operand a := by
  cases a <;> exact Iff.rfl

theorem sameIn_point_reg (s t : State) (u : PointReg) : SameIn s t u.reg ↔ s.point u = t.point u := by
  cases u <;> exact Iff.rfl

/-- The subscalars and signs `DECOMP` writes (45_drivers.md R178). -/
def Pair.decomposed : Pair → List Reg
  | .lo => [.s0, .s1, .sg0, .sg1]
  | .hi => [.s2, .s3, .sg2, .sg3]

/-- The signs `PREP` reads (R178). -/
def Pair.signRegs : Pair → List Reg
  | .lo => [.sg0, .sg1]
  | .hi => [.sg2, .sg3]

/-- The registers a micro-operation writes. -/
def MicroOp.writes : MicroOp → List Reg
  | .mask => [.ka]
  | .decomp _ pair => pair.decomposed
  | .prep _ pair => [pair.bases.1.reg, pair.bases.2.reg]
  | .recode2 _ => [.s0, .s1, .lsb]
  | .recode4 _ => [.s0, .s1, .s2, .s3, .lsb]
  | .combrec72 => [.rb, .clsb]
  | .combrec81 => [.rb, .clsb]
  | .gentab2 => [.tab, .ts, .tt]
  | .gentab4 => [.tab]
  | .sel2 _ _ dest => [dest.reg]
  | .sel4 _ dest => [dest.reg]
  | .selcomb72 _ => [.ts, .tt]
  | .selcomb81 _ => [.tt]
  | .dbl => [.x]
  | .add _ _ => [.x]
  | .correctGlv => [.x]
  | .correctFix => [.ts, .x]
  | .correctSign => [.x]
  | .affine => [.r]

/-- The registers whose values decide what a micro-operation writes. -/
def MicroOp.reads : MicroOp → List Reg
  | .mask => [.ka]
  | .decomp k _ => [k.reg]
  | .prep a pair => a.reg :: pair.signRegs
  | .recode2 _ => [.s0, .s1]
  | .recode4 _ => [.s0, .s1, .s2, .s3]
  | .combrec72 => [.ka]
  | .combrec81 => [.ka]
  | .gentab2 => [.b0, .b1]
  | .gentab4 => [.b0, .b1, .b2, .b3]
  | .sel2 _ _ _ => [.tab, .s0, .s1]
  | .sel4 _ _ => [.tab, .s0, .s1, .s2, .s3]
  | .selcomb72 _ => [.rb]
  | .selcomb81 _ => [.rb, .clsb]
  | .dbl => [.x]
  | .add u v => [u.reg, v.reg]
  | .correctGlv => [.lsb, .x, .b0]
  | .correctFix => [.rb, .x]
  | .correctSign => [.clsb, .x]
  | .affine => [.x]

/-! ### One micro-operation -/

theorem sameIn_emitAll (s : State) (es : List Event) (reg : Reg) : SameIn s (s.emitAll es) reg := by
  cases reg <;> rfl

theorem sameIn_setPoint (s : State) (dest : PointReg) (v : Ecpt) {reg : Reg} (h : reg ≠ dest.reg) :
    SameIn s (s.setPoint dest v) reg := by
  cases dest <;> cases reg <;> simp_all [SameIn, State.setPoint, PointReg.reg]

theorem slot_congr {s t : State} (h : s.tab = t.tab) (k : Nat) : s.slot k = t.slot k := by
  rw [State.slot, State.slot, h]

theorem prep_eq (c : Curve) (a : OperandPoint) (pair : Pair) (s : State) :
    prep c a pair s =
      ((s.setPoint pair.bases.1
          (c.ecCondNeg (s.signs pair).1 (c.ecExpand (s.operand a).x (s.operand a).y))).setPoint
        pair.bases.2 (c.ecCondNeg (s.signs pair).2
          (c.ecExpand (c.glsMorph (s.operand a).x (s.operand a).y).x
            (c.glsMorph (s.operand a).x (s.operand a).y).y))).emitAll
        [.op .ecExpand [.operand a], .op .glsMorph [.operand a], .op .ecExpand [.morphed],
          .op .ecCondNeg [.point pair.bases.1], .op .ecCondNeg [.point pair.bases.2]] := by
  cases pair <;> simp [prep, Pair.bases, State.call, State.emit, State.emitAll, State.setPoint]

/-- `COMBREC` writes the comb buffer and its returned bit (44_comb_recoders.md R151). -/
theorem combrec_sameIn (cfg : Cfg) (d l : Nat) (s : State) {reg : Reg} (h : reg ∉ [Reg.rb, .clsb]) :
    SameIn s (combrec cfg d l s) reg := by
  cases reg <;> simp_all [SameIn, combrec]

theorem combrec_sameIn_of_ka (cfg : Cfg) (d l : Nat) {s t : State} (h : s.ka = t.ka) :
    (combrec cfg d l s).rb = (combrec cfg d l t).rb ∧
      (combrec cfg d l s).clsb = (combrec cfg d l t).clsb := by
  simp only [combrec, State.call_rb, State.call_clsb, h, and_self]

/-- The frame of a micro-operation (45_drivers.md R180 to R186). -/
theorem runMicro_sameIn_of_notMem_writes (cfg : Cfg) (m : MicroOp) (s : State) {reg : Reg}
    (h : reg ∉ m.writes) : SameIn s (runMicro cfg m s) reg := by
  cases m with
  | decomp k pair => cases pair <;> cases reg <;> simp_all [SameIn, MicroOp.writes, Pair.decomposed, runMicro, decomp]
  | prep a pair =>
    simp only [MicroOp.writes, List.mem_cons, List.not_mem_nil, or_false, not_or] at h
    obtain ⟨h1, h2⟩ := h
    rw [runMicro, prep_eq]
    exact ((sameIn_setPoint _ _ _ h1).trans (sameIn_setPoint _ _ _ h2)).trans (sameIn_emitAll ..)
  | sel2 index ct dest =>
    rw [runMicro, sel2_eq]
    exact (sameIn_emitAll ..).trans (sameIn_setPoint _ _ _ fun e => h (List.mem_singleton.mpr e))
  | sel4 index dest =>
    rw [runMicro, sel4_eq]
    exact (sameIn_emitAll ..).trans (sameIn_setPoint _ _ _ fun e => h (List.mem_singleton.mpr e))
  | gentab2 =>
    rw [runMicro, gentab2_eq]
    cases reg <;> simp_all [SameIn, MicroOp.writes]
  | gentab4 =>
    rw [runMicro, gentab4_eq]
    cases reg <;> simp_all [SameIn, MicroOp.writes]
  | selcomb72 ep =>
    rw [runMicro, selcomb72_eq]
    cases reg <;> simp_all [SameIn, MicroOp.writes]
  | selcomb81 ep =>
    rw [runMicro, selcomb81_eq]
    cases reg <;> simp_all [SameIn, MicroOp.writes]
  | combrec72 => exact combrec_sameIn cfg 36 252 s h
  | combrec81 => exact combrec_sameIn cfg 32 256 s h
  | _ =>
    cases reg <;> simp_all [SameIn, MicroOp.writes, runMicro, recode2, recode4, doubleX, addToX, correctGlv,
      correctFix, correctSign, writeResult, gfixRead]

/-- What a micro-operation writes is a function of what it reads (60_exceptions.md R240). -/
theorem runMicro_sameIn_of_reads (cfg : Cfg) (m : MicroOp) {s t : State}
    (h : ∀ reg ∈ m.reads, SameIn s t reg) :
    ∀ reg ∈ m.writes, SameIn (runMicro cfg m s) (runMicro cfg m t) reg := by
  cases m with
  | decomp k pair =>
    simp only [MicroOp.reads, List.mem_singleton, forall_eq, sameIn_scalar_reg] at h
    cases pair <;> simp [MicroOp.writes, Pair.decomposed, SameIn, runMicro, decomp, h]
  | prep a pair =>
    cases pair with
    | lo =>
      simp only [MicroOp.reads, Pair.signRegs, List.forall_mem_cons, sameIn_operand_reg] at h
      obtain ⟨ha, h0, h1, -⟩ := h
      simp only [SameIn] at h0 h1
      simp [MicroOp.writes, PointReg.reg, Pair.bases, SameIn, runMicro, prep_eq, State.signs, ha, h0, h1]
    | hi =>
      simp only [MicroOp.reads, Pair.signRegs, List.forall_mem_cons, sameIn_operand_reg] at h
      obtain ⟨ha, h0, h1, -⟩ := h
      simp only [SameIn] at h0 h1
      simp [MicroOp.writes, PointReg.reg, Pair.bases, SameIn, runMicro, prep_eq, State.signs, ha, h0, h1]
  | sel2 index ct dest =>
    simp only [MicroOp.reads, List.forall_mem_cons] at h
    obtain ⟨htab, h0, h1, -⟩ := h
    simp only [SameIn] at htab h0 h1
    simp [MicroOp.writes, sameIn_point_reg, runMicro, sel2_eq, h0, h1, slot_congr htab]
  | sel4 index dest =>
    simp only [MicroOp.reads, List.forall_mem_cons] at h
    obtain ⟨htab, h0, h1, h2, h3, -⟩ := h
    simp only [SameIn] at htab h0 h1 h2 h3
    simp [MicroOp.writes, sameIn_point_reg, runMicro, sel4_eq, h0, h1, h2, h3, slot_congr htab]
  | add u v =>
    simp only [MicroOp.reads, List.forall_mem_cons, sameIn_point_reg] at h
    obtain ⟨hu, hv, -⟩ := h
    simp [MicroOp.writes, SameIn, runMicro, addToX, hu, hv]
  | combrec72 =>
    have := combrec_sameIn_of_ka cfg 36 252 (h .ka (List.mem_singleton_self _))
    simpa [MicroOp.writes, SameIn, runMicro, combrec72] using this
  | combrec81 =>
    have := combrec_sameIn_of_ka cfg 32 256 (h .ka (List.mem_singleton_self _))
    simpa [MicroOp.writes, SameIn, runMicro, combrec81] using this
  | gentab2 =>
    simp [MicroOp.reads, SameIn] at h
    simp [MicroOp.writes, SameIn, runMicro, gentab2_eq, h]
  | gentab4 =>
    simp [MicroOp.reads, SameIn] at h
    simp [MicroOp.writes, SameIn, runMicro, gentab4_eq, h]
  | selcomb72 ep =>
    simp [MicroOp.reads, SameIn] at h
    simp [MicroOp.writes, SameIn, runMicro, selcomb72_eq, h]
  | selcomb81 ep =>
    simp [MicroOp.reads, SameIn] at h
    simp [MicroOp.writes, SameIn, runMicro, selcomb81_eq, h]
  | mask =>
    simp [MicroOp.reads, SameIn] at h
    simp [MicroOp.writes, SameIn, runMicro, h]
  | recode2 len =>
    simp [MicroOp.reads, SameIn] at h
    simp [MicroOp.writes, SameIn, runMicro, recode2, h]
  | recode4 len =>
    simp [MicroOp.reads, SameIn] at h
    simp [MicroOp.writes, SameIn, runMicro, recode4, h]
  | dbl =>
    simp [MicroOp.reads, SameIn] at h
    simp [MicroOp.writes, SameIn, runMicro, doubleX, h]
  | correctGlv =>
    simp [MicroOp.reads, SameIn] at h
    simp [MicroOp.writes, SameIn, runMicro, correctGlv, h]
  | correctFix =>
    simp [MicroOp.reads, SameIn] at h
    simp [MicroOp.writes, SameIn, runMicro, correctFix, h]
  | correctSign =>
    simp [MicroOp.reads, SameIn] at h
    simp [MicroOp.writes, SameIn, runMicro, correctSign, h]
  | affine =>
    simp [MicroOp.reads, SameIn] at h
    simp [MicroOp.writes, SameIn, runMicro, writeResult, h]

/-! ### A run of micro-operations -/

theorem runMicros_sameIn_of_notMem_writes (cfg : Cfg) (ms : List MicroOp) (s : State) {reg : Reg}
    (h : ∀ m ∈ ms, reg ∉ m.writes) : SameIn s (runMicros cfg ms s) reg := by
  induction ms generalizing s with
  | nil => exact SameIn.refl s reg
  | cons m ms ih =>
    rw [List.forall_mem_cons] at h
    obtain ⟨hm, hms⟩ := h
    exact (runMicro_sameIn_of_notMem_writes cfg m s hm).trans (ih _ hms)

/-- Every read of a run is of a register known before it or written earlier in it. -/
def ReadsKnown : List Reg → List MicroOp → Prop
  | _, [] => True
  | known, m :: ms => m.reads ⊆ known ∧ ReadsKnown (m.writes ++ known) ms

/-- After a run the known registers are those it wrote too. -/
def knownAfter (known : List Reg) (ms : List MicroOp) : List Reg := ms.flatMap MicroOp.writes ++ known

/-- Two runs from states that agree on the known registers agree on them and on what they write
(45_drivers.md R195). -/
theorem runMicros_sameIn_of_readsKnown (cfg : Cfg) {known : List Reg} {ms : List MicroOp} {s t : State}
    (hreads : ReadsKnown known ms) (h : ∀ reg ∈ known, SameIn s t reg) :
    ∀ reg ∈ knownAfter known ms, SameIn (runMicros cfg ms s) (runMicros cfg ms t) reg := by
  induction ms generalizing known s t with
  | nil => simpa [knownAfter] using h
  | cons m ms ih =>
    obtain ⟨hm, hms⟩ := hreads
    have step : ∀ reg ∈ m.writes ++ known, SameIn (runMicro cfg m s) (runMicro cfg m t) reg := by
      intro reg hreg
      by_cases hw : reg ∈ m.writes
      · exact runMicro_sameIn_of_reads cfg m (fun _ hr => h _ (hm hr)) reg hw
      · have kept := runMicro_sameIn_of_notMem_writes cfg m (reg := reg) (h := hw)
        have hk : reg ∈ known := (List.mem_append.mp hreg).resolve_left hw
        exact (kept s).symm.trans ((h reg hk).trans (kept t))
    intro reg hreg
    refine ih hms step reg ?_
    simp only [knownAfter, List.flatMap_cons, List.mem_append] at hreg ⊢
    tauto

theorem ReadsKnown.mono {known known' : List Reg} {ms : List MicroOp} (h : ReadsKnown known ms)
    (hk : known ⊆ known') : ReadsKnown known' ms := by
  induction ms generalizing known known' with
  | nil => trivial
  | cons m ms ih =>
    obtain ⟨hm, hms⟩ := h
    exact ⟨List.Subset.trans hm hk, ih hms (List.append_subset.mpr
      ⟨List.subset_append_left _ _, List.Subset.trans hk (List.subset_append_right _ _)⟩)⟩

theorem ReadsKnown.append {known : List Reg} {ms ns : List MicroOp} (h : ReadsKnown known ms)
    (h' : ReadsKnown (knownAfter known ms) ns) : ReadsKnown known (ms ++ ns) := by
  induction ms generalizing known with
  | nil => exact h'
  | cons m ms ih =>
    obtain ⟨hm, hms⟩ := h
    refine ⟨hm, ih hms (h'.mono fun reg hreg => ?_)⟩
    simp only [knownAfter, List.flatMap_cons, List.mem_append] at hreg ⊢
    tauto

/-- A loop whose every iteration reads known registers. -/
theorem ReadsKnown.flatMap {α : Type} {known : List Reg} {body : α → List MicroOp}
    (h : ∀ a, ReadsKnown known (body a)) (l : List α) : ReadsKnown known (l.flatMap body) := by
  induction l with
  | nil => trivial
  | cons a l ih =>
    rw [List.flatMap_cons]
    exact (h a).append (ih.mono (List.subset_append_right _ _))

end Sys2Proof.Machine
end

section
/-! PROOFS. The sequencer (spec 10_state.md R40 to R42; 45_drivers.md R170, R171, R174): from its first
position it walks the positions of a command's list, in order, and then completes. -/

namespace Sys2Proof.Machine

/-! ### Walks -/

/-- Started at a position, the sequencer stands at the positions `qs` in turn, names the micro-operations
`ms` there, and is then at the last position given, or past the end. -/
inductive Plan.Walk (p : Plan) : Option Seq → List Seq → List MicroOp → Option Seq → Prop
  | nil (e : Option Seq) : Walk p e [] [] e
  | cons {q : Seq} {m : MicroOp} {qs : List Seq} {ms : List MicroOp} {e : Option Seq} :
    p.microAt q = some m → Walk p (p.next q) qs ms e → Walk p (some q) (q :: qs) (m :: ms) e

theorem Plan.Walk.append {p : Plan} {a b c : Option Seq} {qs rs : List Seq} {ms ns : List MicroOp}
    (h : p.Walk a qs ms b) (g : p.Walk b rs ns c) : p.Walk a (qs ++ rs) (ms ++ ns) c := by
  induction h with
  | nil => exact g
  | cons hm _ ih => exact .cons hm (ih g)

theorem Plan.Walk.length_eq {p : Plan} {a b : Option Seq} {qs : List Seq} {ms : List MicroOp}
    (h : p.Walk a qs ms b) : qs.length = ms.length := by
  induction h with
  | nil => rfl
  | cons _ _ ih => rw [List.length_cons, List.length_cons, ih]

/-! ### One phase, one iteration -/

/-- Where the sequencer goes after the last micro-operation of a phase or iteration. -/
def Plan.leave (p : Plan) (ph : Phase) (ii : BitVec 8) : Option Seq :=
  match p.nextIndex { phase := ph, ii := ii, sub := 0 } with
  | some ii' => some { phase := ph, ii := ii', sub := 0 }
  | none => p.enterFirst ii (laterPhases ph)

theorem Plan.next_of_lt {p : Plan} {q : Seq} (h : q.sub.toNat + 1 < (p.ops q.ii q.phase).length) :
    p.next q = some { q with sub := q.sub + 1 } := if_pos h

theorem Plan.next_of_last {p : Plan} {ph : Phase} {ii sub : BitVec 8}
    (h : sub.toNat + 1 = (p.ops ii ph).length) : p.next ⟨ph, ii, sub⟩ = p.leave ph ii := by
  rw [next, if_neg (by simp only; omega)]
  rfl

theorem phasePositions_length (ph : Phase) (ii : BitVec 8) (ms : List MicroOp) :
    (phasePositions ph ii ms).length = ms.length := by
  simp [phasePositions]

/-- The `SUB` of micro-operation `j`. -/
theorem toNat_ofNat_sub {j n : Nat} (hj : j < n) (hn : n ≤ 256) : (BitVec.ofNat 8 j).toNat = j := by
  rw [BitVec.toNat_ofNat, Nat.mod_eq_of_lt (by omega)]

/-- A walk of the micro-operations of a phase after number `j`, with number `j` put before it. -/
theorem Plan.Walk.cons_drop {p : Plan} {ph : Phase} {ii : BitVec 8} {j : Nat} {e : Option Seq}
    (hlen : (p.ops ii ph).length ≤ 256) (hj : j < (p.ops ii ph).length)
    (h : p.Walk (p.next ⟨ph, ii, BitVec.ofNat 8 j⟩) ((phasePositions ph ii (p.ops ii ph)).drop (j + 1))
      ((p.ops ii ph).drop (j + 1)) e) :
    p.Walk (some ⟨ph, ii, BitVec.ofNat 8 j⟩) ((phasePositions ph ii (p.ops ii ph)).drop j)
      ((p.ops ii ph).drop j) e := by
  have hj' : j < (phasePositions ph ii (p.ops ii ph)).length := by rwa [phasePositions_length]
  have here : (phasePositions ph ii (p.ops ii ph))[j] = ⟨ph, ii, BitVec.ofNat 8 j⟩ := by
    simp [phasePositions]
  rw [List.drop_eq_getElem_cons hj', List.drop_eq_getElem_cons hj, here]
  refine .cons ?_ h
  simp only [microAt, toNat_ofNat_sub hj hlen]
  exact List.getElem?_eq_getElem hj

/-- Inside a phase `SUB` counts up by one. -/
theorem Plan.walk_drop (p : Plan) (ph : Phase) (ii : BitVec 8) (hlen : (p.ops ii ph).length ≤ 256)
    (n j : Nat) (h : j + (n + 1) = (p.ops ii ph).length) :
    p.Walk (some ⟨ph, ii, BitVec.ofNat 8 j⟩) ((phasePositions ph ii (p.ops ii ph)).drop j)
      ((p.ops ii ph).drop j) (p.leave ph ii) := by
  have sub := toNat_ofNat_sub (show j < (p.ops ii ph).length by omega) hlen
  refine .cons_drop hlen (by omega) ?_
  induction n generalizing j with
  | zero =>
    rw [next_of_last (by omega), List.drop_eq_nil_of_le (by rw [phasePositions_length]; omega),
      List.drop_eq_nil_of_le (by omega)]
    exact .nil _
  | succ n ih =>
    have lt' : j + 1 < (p.ops ii ph).length := by omega
    have more : (BitVec.ofNat 8 j).toNat + 1 < (p.ops ii ph).length := by omega
    rw [next_of_lt more, show BitVec.ofNat 8 j + 1 = BitVec.ofNat 8 (j + 1) from
      (BitVec.ofNat_add j 1).symm]
    exact .cons_drop hlen lt' (ih (j + 1) (by omega) (toNat_ofNat_sub lt' hlen))

/-- A phase that is not empty is walked from its first micro-operation to its last. -/
theorem Plan.walk_phase (p : Plan) (ph : Phase) (ii : BitVec 8) (hlen : (p.ops ii ph).length ≤ 256)
    (hne : p.ops ii ph ≠ []) :
    p.Walk (some ⟨ph, ii, 0⟩) (phasePositions ph ii (p.ops ii ph)) (p.ops ii ph) (p.leave ph ii) := by
  have hpos := List.length_pos_of_ne_nil hne
  simpa using p.walk_drop ph ii hlen ((p.ops ii ph).length - 1) 0 (by omega)

/-- A phase that does not touch `II` is walked if it has micro-operations and passed through if not
(45_drivers.md R171). -/
theorem Plan.walk_enter {p : Plan} {ph : Phase} {ii : BitVec 8} {qs : List Seq} {ms : List MicroOp}
    (hph : ph ≠ .iterate) (hlen : (p.ops ii ph).length ≤ 256)
    (h : p.Walk (p.enterFirst ii (laterPhases ph)) qs ms none) :
    p.Walk (p.enterFirst ii (ph :: laterPhases ph)) (phasePositions ph ii (p.ops ii ph) ++ qs)
      (p.ops ii ph ++ ms) none := by
  have entry : p.entryIndex ii ph = ii := by
    cases ph with
    | iterate => exact absurd rfl hph
    | _ => rfl
  have leave : p.leave ph ii = p.enterFirst ii (laterPhases ph) := by
    cases ph with
    | iterate => exact absurd rfl hph
    | _ => rfl
  rw [enterFirst]
  simp only [entry]
  by_cases hne : p.ops ii ph = []
  · simpa [hne, phasePositions] using h
  · rw [if_neg (by simpa using hne)]
    exact (p.walk_phase ph ii hlen hne).append (leave ▸ h)

/-! ### The ladder (10_state.md R42) -/

/-- The `II` of iteration `j`. -/
def Ladder.index (l : Ladder) (j : Nat) : BitVec 8 := l.first - l.stride * BitVec.ofNat 8 j

/-- `II` reaches `last` after `n` strides down from `first`, and every iteration has something to do. -/
structure Ladder.Regular (l : Ladder) (n : Nat) : Prop where
  first_eq : l.first.toNat = l.last.toNat + l.stride.toNat * n
  stride_pos : 0 < l.stride.toNat
  body_ne : ∀ ii, l.body ii ≠ []
  body_short : ∀ ii, (l.body ii).length ≤ 256

theorem Ladder.Regular.indices_eq {l : Ladder} {n : Nat} (h : l.Regular n) :
    l.indices = (List.range (n + 1)).map l.index := by
  have hlast := h.first_eq
  have hdiff : (l.first - l.last).toNat = l.stride.toNat * n := by
    rw [BitVec.toNat_sub_of_le (by rw [BitVec.le_def]; omega)]
    omega
  rw [indices, hdiff, Nat.mul_div_cancel_left _ h.stride_pos]
  rfl

theorem Ladder.Regular.index_toNat {l : Ladder} {n j : Nat} (h : l.Regular n) (hj : j ≤ n) :
    (l.index j).toNat = l.last.toNat + l.stride.toNat * (n - j) := by
  have hfirst := h.first_eq
  have hstride := h.stride_pos
  have hlt := l.first.isLt
  have hprod : l.stride.toNat * j ≤ l.stride.toNat * n := Nat.mul_le_mul_left _ hj
  have hsub : l.stride.toNat * (n - j) = l.stride.toNat * n - l.stride.toNat * j := Nat.mul_sub ..
  have hj' : j ≤ l.stride.toNat * j := Nat.le_mul_of_pos_left _ hstride
  have hmul : (l.stride * BitVec.ofNat 8 j).toNat = l.stride.toNat * j := by
    rw [BitVec.toNat_mul, BitVec.toNat_ofNat, Nat.mod_eq_of_lt (show j < 2 ^ 8 by omega),
      Nat.mod_eq_of_lt (by omega)]
  rw [index, BitVec.toNat_sub_of_le (by rw [BitVec.le_def]; omega), hmul]
  omega

theorem Ladder.Regular.index_last {l : Ladder} {n : Nat} (h : l.Regular n) : l.index n = l.last :=
  BitVec.eq_of_toNat_eq (by rw [h.index_toNat le_rfl]; simp)

theorem Ladder.Regular.index_ne_last {l : Ladder} {n j : Nat} (h : l.Regular n) (hj : j < n) :
    l.index j ≠ l.last := fun e => by
  have hi := h.index_toNat hj.le
  have hpos : 0 < l.stride.toNat * (n - j) := Nat.mul_pos h.stride_pos (by omega)
  rw [e] at hi
  omega

theorem Ladder.index_succ (l : Ladder) (j : Nat) : l.index (j + 1) = l.index j - l.stride := by
  rw [index, index, BitVec.ofNat_add, BitVec.mul_add, show BitVec.ofNat 8 1 = 1#8 from rfl, BitVec.mul_one,
    sub_add_eq_sub_sub]

/-- The positions of a ladder, iteration by iteration. -/
def Ladder.positions (l : Ladder) (is : List (BitVec 8)) : List Seq :=
  is.flatMap fun ii => phasePositions .iterate ii (l.body ii)

theorem Plan.leave_iterate_of_ne {p : Plan} {l : Ladder} (hl : p.ladder = some l) {ii : BitVec 8}
    (h : ii ≠ l.last) : p.leave .iterate ii = some ⟨.iterate, ii - l.stride, 0⟩ := by
  simp only [leave, nextIndex, hl, if_neg h]

theorem Plan.leave_iterate_of_eq {p : Plan} {l : Ladder} (hl : p.ladder = some l) :
    p.leave .iterate l.last = p.enterFirst l.last (laterPhases .iterate) := by
  simp only [leave, nextIndex, hl, if_pos]

/-- The iterations from number `j` on. -/
theorem Plan.walk_iterations {p : Plan} {l : Ladder} {n : Nat} (hl : p.ladder = some l) (h : l.Regular n)
    (k j : Nat) (hj : j + k = n) :
    p.Walk (some ⟨.iterate, l.index j, 0⟩) (l.positions ((List.range' j (k + 1)).map l.index))
      (((List.range' j (k + 1)).map l.index).flatMap l.body)
      (p.enterFirst l.last (laterPhases .iterate)) := by
  have ops_eq : ∀ ii, p.ops ii .iterate = l.body ii := fun ii => by simp only [ops, hl]
  have iteration := p.walk_phase .iterate (l.index j) (by rw [ops_eq]; exact h.body_short _)
    (by rw [ops_eq]; exact h.body_ne _)
  rw [ops_eq] at iteration
  induction k generalizing j with
  | zero =>
    obtain rfl : j = n := hj
    rw [h.index_last, leave_iterate_of_eq hl] at iteration
    simpa [Ladder.positions, h.index_last] using iteration
  | succ k ih =>
    rw [leave_iterate_of_ne hl (h.index_ne_last (by omega)), ← l.index_succ] at iteration
    rw [List.range'_succ, List.map_cons, Ladder.positions, List.flatMap_cons, List.flatMap_cons]
    refine iteration.append (ih (j + 1) (by omega) ?_)
    have next := p.walk_phase .iterate (l.index (j + 1)) (by rw [ops_eq]; exact h.body_short _)
      (by rw [ops_eq]; exact h.body_ne _)
    rwa [ops_eq] at next

/-! ### A whole list -/

/-- What the lists of the commands have in common: a first micro-operation, phases `SUB` can count, and a
ladder that ends. -/
structure Plan.Regular (p : Plan) : Prop where
  setup_ne : p.setup ≠ []
  short : ∀ ph, ph ≠ .iterate → ∀ ii, (p.ops ii ph).length ≤ 256
  ladder : ∀ l, p.ladder = some l → ∃ n, l.Regular n

/-- The `ITERATE` phase of a list, entered with `II` at 0. -/
theorem Plan.Regular.walk_ladder {p : Plan} (h : p.Regular) {qs : List Seq} {ms : List MicroOp}
    (g : p.Walk (p.enterFirst p.finalIndex (laterPhases .iterate)) qs ms none) :
    p.Walk (p.enterFirst 0 (laterPhases .seed))
      ((p.ladder.map fun l => l.positions l.indices).getD [] ++ qs)
      ((p.ladder.map Ladder.program).getD [] ++ ms) none := by
  cases hl : p.ladder with
  | none =>
    simp only [finalIndex, hl, Option.map_none, Option.getD_none] at g
    simpa [laterPhases, enterFirst, entryIndex, ops, hl] using g
  | some l =>
    obtain ⟨n, hn⟩ := h.ladder l hl
    simp only [finalIndex, hl, Option.map_some, Option.getD_some] at g
    have first : l.index 0 = l.first := by simp [Ladder.index]
    have enter : p.enterFirst 0 (laterPhases .seed) = some ⟨.iterate, l.index 0, 0⟩ := by
      simp [laterPhases, enterFirst, entryIndex, ops, hl, hn.body_ne, first]
    have all := p.walk_iterations hl hn n 0 (Nat.zero_add n)
    rw [enter, Option.map_some, Option.getD_some, Option.map_some, Option.getD_some, Ladder.program,
      hn.indices_eq, List.range_eq_range']
    exact all.append g

/-- The sequencer walks the whole list (45_drivers.md R170, R171). -/
theorem Plan.Regular.walk {p : Plan} (h : p.Regular) :
    p.Walk (some ⟨.setup, 0, 0⟩) p.positions p.program none := by
  have phase {ph : Phase} {ii : BitVec 8} {qs : List Seq} {ms : List MicroOp} (hph : ph ≠ .iterate) :=
    p.walk_enter (ii := ii) (qs := qs) (ms := ms) hph (h.short ph hph ii)
  have enter : p.enterFirst 0 (.setup :: laterPhases .setup) = some ⟨.setup, 0, 0⟩ := by
    simp [enterFirst, entryIndex, ops, h.setup_ne]
  have affine := phase (ph := .affine) (ii := p.finalIndex) (by decide) (.nil none)
  have fromCorrect := phase (ph := .correct) (by decide) (phase (ph := .cofactor) (by decide) affine)
  have fromSetup := phase (ph := .setup) (by decide)
    (phase (ph := .tableBuild) (by decide) (phase (ph := .seed) (by decide) (h.walk_ladder fromCorrect)))
  rw [← enter]
  simpa [positions, program, Ladder.positions, ops, List.append_assoc, phasePositions] using fromSetup

/-! ### The commands' lists -/

theorem planOf_regular (i : Instr) : (planOf i).Regular := by
  cases i with
  | maskScalar => exact ⟨by decide, fun ph h ii => by cases ph <;> simp [planOf, maskPlan, Plan.ops], nofun⟩
  | mul =>
    refine ⟨by decide, fun ph h ii => ?_, fun l hl => ⟨62, ?_⟩⟩
    · cases ph <;> simp_all [planOf, mulPlan, Plan.ops, cofactorOps]
    · obtain rfl := Option.some.inj hl
      exact ⟨rfl, by decide, fun _ => List.cons_ne_nil _ _, fun _ => by simp [window2Ops]⟩
  | mulGen mc =>
    refine ⟨List.cons_ne_nil _ _, fun ph h ii => ?_, fun l hl => ⟨16, ?_⟩⟩
    · cases ph <;> cases mc <;> simp_all [planOf, mulGenPlan, Plan.ops, cofactorOps]
    · obtain rfl := Option.some.inj hl
      exact ⟨rfl, by decide, fun _ => List.cons_ne_nil _ _, fun _ => by simp⟩
  | simul =>
    refine ⟨by decide, fun ph h ii => ?_, fun l hl => ⟨125, ?_⟩⟩
    · cases ph <;> simp_all [planOf, simulPlan, Plan.ops, cofactorOps]
    · obtain rfl := Option.some.inj hl
      exact ⟨rfl, by decide, fun _ => List.cons_ne_nil _ _, fun _ => by simp⟩
  | simulGen =>
    refine ⟨by decide, fun ph h ii => ?_, fun l hl => ⟨62, ?_⟩⟩
    · cases ph <;> simp_all [planOf, simulGenPlan, Plan.ops, cofactorOps]
    · obtain rfl := Option.some.inj hl
      refine ⟨rfl, by decide, fun ii => ?_, fun ii => ?_⟩
      · simp only
        split <;> exact List.cons_ne_nil _ _
      · simp only
        split <;> simp [window2Ops, mixedOps]

/-- Settles O30: the list of each command, counted. -/
theorem coreStepCounts : Obligations.CoreStepCounts := by
  refine ⟨?_, ?_, ?_, ?_, ?_, ?_⟩ <;> decide +kernel

end Sys2Proof.Machine
end

section
/-! PROOFS. A command by core steps (spec 45_drivers.md R170 to R175): the run walks the command's list, and
the whole command as one transition is the same run. -/

namespace Sys2Proof.Machine

/-! ### The lists of the commands, up to `AFFINE` -/

/-- A command's list without its `AFFINE` phase. -/
def Plan.front (p : Plan) : List MicroOp :=
  p.setup ++ p.tableBuild ++ p.seed ++ (p.ladder.map Ladder.program).getD [] ++ p.correct ++ p.cofactor

theorem Plan.program_eq (p : Plan) : p.program = p.front ++ p.affine := rfl

theorem Ladder.forall_mem_program {l : Ladder} {P : MicroOp → Prop} (h : ∀ ii, ∀ m ∈ l.body ii, P m) :
    ∀ m ∈ l.program, P m := by
  intro m hm
  obtain ⟨ii, -, hm⟩ := List.mem_flatMap.mp hm
  exact h ii m hm

theorem Plan.forall_mem_ladder {p : Plan} {P : MicroOp → Prop}
    (h : ∀ l, p.ladder = some l → ∀ ii, ∀ m ∈ l.body ii, P m) :
    ∀ m ∈ (p.ladder.map Ladder.program).getD [], P m := by
  cases hl : p.ladder with
  | none => simp
  | some l => exact Ladder.forall_mem_program (h l hl)

/-- The mask step and `AFFINE` are in no driver's list but for its end (R172, R191). -/
theorem planOf_front_forall {i : Instr} (driver : i.isDriver = true) :
    ∀ m ∈ (planOf i).front, m ≠ .mask ∧ m ≠ .affine := by
  have ladder (p : Plan) (l : Ladder) (hl : p.ladder = some l)
      (h : ∀ ii, ∀ m ∈ l.body ii, m ≠ .mask ∧ m ≠ .affine) :
      ∀ m ∈ (p.ladder.map Ladder.program).getD [], m ≠ .mask ∧ m ≠ .affine :=
    Plan.forall_mem_ladder fun l' hl' => by
      obtain rfl : l = l' := Option.some.inj (hl.symm.trans hl')
      exact h
  simp only [Plan.front, List.forall_mem_append]
  cases i with
  | maskScalar => cases driver
  | mul =>
    refine ⟨⟨⟨⟨⟨?_, ?_⟩, ?_⟩, ladder _ _ rfl fun ii => ?_⟩, ?_⟩, ?_⟩ <;>
      simp [planOf, mulPlan, window2Ops, cofactorOps]
  | mulGen mc =>
    refine ⟨⟨⟨⟨⟨?_, ?_⟩, ?_⟩, ladder _ _ rfl fun ii => ?_⟩, ?_⟩, ?_⟩ <;> cases mc <;>
      simp [planOf, mulGenPlan, cofactorOps]
  | simul =>
    refine ⟨⟨⟨⟨⟨?_, ?_⟩, ?_⟩, ladder _ _ rfl fun ii => ?_⟩, ?_⟩, ?_⟩ <;>
      simp [planOf, simulPlan, cofactorOps]
  | simulGen =>
    refine ⟨⟨⟨⟨⟨?_, ?_⟩, ?_⟩, ladder _ _ rfl fun ii => ?_⟩, ?_⟩, ?_⟩
    case refine_4 =>
      simp only
      split <;> simp [window2Ops, mixedOps]
    all_goals simp [planOf, simulGenPlan, cofactorOps]

theorem planOf_affine_of_driver {i : Instr} (driver : i.isDriver = true) :
    (planOf i).affine = [.affine] := by
  cases i with
  | maskScalar => cases driver
  | _ => rfl

theorem planOf_program_of_driver {i : Instr} (driver : i.isDriver = true) :
    (planOf i).program = (planOf i).front ++ [.affine] := by
  rw [Plan.program_eq, planOf_affine_of_driver driver]

/-- A driver's `R` is as it was until `AFFINE` (R172, R191). -/
theorem runMicros_front_r (cfg : Cfg) {i : Instr} (driver : i.isDriver = true) {ms : List MicroOp}
    (hms : ms ⊆ (planOf i).front) (s : State) : (runMicros cfg ms s).r = s.r :=
  (runMicros_keepsAll cfg ms s (fun h => (planOf_front_forall driver _ (hms h)).1 rfl)
    fun h => (planOf_front_forall driver _ (hms h)).2 rfl).r

/-- The last position of a command's list has the `II` its ladder ends with (10_state.md R42). -/
theorem planOf_getLast_positions {i : Instr} {q : Seq} (h : (planOf i).positions.getLast? = some q) :
    q.ii = (planOf i).finalIndex := by
  by_cases driver : i.isDriver = true
  · have last : phasePositions .affine (planOf i).finalIndex (planOf i).affine =
        [⟨.affine, (planOf i).finalIndex, 0⟩] := by
      rw [planOf_affine_of_driver driver]
      rfl
    rw [Plan.positions, last, List.getLast?_concat, Option.some.injEq] at h
    rw [← h]
  · obtain rfl : i = .maskScalar := by
      cases i with
      | maskScalar => rfl
      | _ => exact absurd rfl driver
    obtain rfl := Option.some.inj h
    rfl

/-! ### The run from a position -/

theorem latched_of_instr (i : Instr) : latched i.opcode i.cofactor = some i := by
  cases i with
  | mulGen mc => cases mc <;> rfl
  | _ => rfl

/-- The command in progress is `i`, and nothing is asked. -/
structure Running (i : Instr) (s : State) : Prop where
  busy : s.busy = true
  latched : latched s.opl s.mcl = some i
  turns : s.turns = []

theorem Running.of_keeps {i : Instr} {s t : State} (h : Running i s) (k : Keeps s t) : Running i t :=
  ⟨k.busy.trans h.busy, by rw [k.opl, k.mcl]; exact h.latched, k.turns.trans h.turns⟩

theorem running_accept (i : Instr) (s : State) : Running i { accept i s with turns := [] } :=
  ⟨rfl, latched_of_instr i, rfl⟩

theorem Running.step {i : Instr} {s : State} {m : MicroOp} (h : Running i s)
    (hm : (planOf i).microAt s.seq = some m) :
    step s = .next (microStep Config.cfg (planOf i) m s) := by
  rw [step_of_nil h.turns, coreStep_busy _ h.busy h.latched hm]

theorem Plan.Walk.of_none {p : Plan} {qs : List Seq} {ms : List MicroOp} {e : Option Seq}
    (h : p.Walk none qs ms e) : qs = [] ∧ ms = [] := by
  cases h
  exact ⟨rfl, rfl⟩

/-- Along a walk to the end, each core step runs the micro-operation its position names, and the last one
completes. -/
theorem run_walk {i : Instr} {a : Option Seq} {qs : List Seq} {ms : List MicroOp} {e : Option Seq}
    (hw : (planOf i).Walk a qs ms e) (he : e = none) (s : State) (hs : Running i s) (ha : a = some s.seq) :
    (∀ n, n < ms.length → ∃ q ∈ qs, Host.Core.run Sys2Proof.core n s =
      .next { runMicros Config.cfg (ms.take n) s with seq := q }) ∧
    ∃ q, qs.getLast? = some q ∧ Host.Core.run Sys2Proof.core ms.length s =
      .next (complete { runMicros Config.cfg ms s with seq := q }) := by
  induction hw generalizing s with
  | nil e => exact absurd (he.symm.trans ha) nofun
  | @cons q m qs ms e hm rest ih =>
    obtain rfl : q = s.seq := Option.some.inj ha
    have step := hs.step hm
    cases hnext : (planOf i).next s.seq with
    | none =>
      rw [hnext] at rest
      obtain ⟨rfl, rfl⟩ := rest.of_none
      rw [microStep_of_last hnext] at step
      refine ⟨fun n hn => ?_, s.seq, rfl, ?_⟩
      · obtain rfl : n = 0 := by simpa using hn
        exact ⟨s.seq, List.mem_singleton_self _, rfl⟩
      · rw [List.length_singleton, run_succ_of_step step, run_zero]
        rw [show ({ runMicros Config.cfg [m] s with seq := s.seq } : State) = runMicro Config.cfg m s by
          rw [← (runMicro_keeps Config.cfg m s).seq]
          rfl]
    | some q' =>
      rw [microStep_of_next hnext] at step
      have running : Running i { runMicro Config.cfg m s with seq := q' } :=
        ⟨(runMicro_keeps Config.cfg m s).busy.trans hs.busy,
          (hs.of_keeps (runMicro_keeps Config.cfg m s)).latched,
          (runMicro_keeps Config.cfg m s).turns.trans hs.turns⟩
      obtain ⟨before, last, hlast, final⟩ := ih he _ running hnext
      refine ⟨fun n hn => ?_, last, ?_, ?_⟩
      · cases n with
        | zero => exact ⟨s.seq, List.mem_cons_self .., rfl⟩
        | succ n =>
          obtain ⟨q'', hq'', hrun⟩ := before n (by simpa using hn)
          refine ⟨q'', List.mem_cons_of_mem _ hq'', ?_⟩
          rw [run_succ_of_step step, hrun, runMicros_setSeq]
          rfl
      · rw [List.getLast?_cons, hlast, Option.getD_some]
      · rw [List.length_cons, run_succ_of_step step, final, runMicros_setSeq]
        rfl

/-- The run of a command from its acceptance, before its last core step. -/
theorem run_accept (i : Instr) (s : State) {n : Nat} (hn : n < coreSteps i) :
    ∃ q ∈ (planOf i).positions,
      Host.Core.run Sys2Proof.core n { accept i s with turns := [] } =
        .next { runMicros Config.cfg ((planOf i).program.take n) { accept i s with turns := [] } with
          seq := q } :=
  (run_walk (planOf_regular i).walk rfl _ (running_accept i s) rfl).1 n hn

/-- Settles O28: the walk ends with the completion, at the `II` the ladder ends with. -/
theorem wholeCommandIsItsCoreSteps : Obligations.WholeCommandIsItsCoreSteps := by
  intro i s idle
  obtain ⟨q, hq, hrun⟩ := (run_walk (planOf_regular i).walk rfl _ (running_accept i s) rfl).2
  rw [coreSteps, hrun, exec_eq, runCommand_idle _ _ _ { s with turns := [] } idle]
  simp only [runPlan, complete, planOf_getLast_positions hq]
  rfl

/-- Settles O29: in the middle of its walk a command has run micro-operations that keep the status, and
those before `AFFINE` keep `R`. -/
theorem busyUntilTheLastMicroOperation : Obligations.BusyUntilTheLastMicroOperation := by
  intro i s n idle hn
  obtain ⟨q, -, hrun⟩ := run_accept i s hn
  have keeps := runMicros_keeps Config.cfg ((planOf i).program.take n) { accept i s with turns := [] }
  refine ⟨_, hrun, keeps.busy, keeps.done, fun driver => ?_⟩
  have before : (planOf i).program.take n ⊆ (planOf i).front := by
    rw [coreSteps, planOf_program_of_driver driver, List.length_append, List.length_singleton] at hn
    rw [planOf_program_of_driver driver, List.take_append_of_le_length (by omega)]
    exact List.take_subset _ _
  refine (runMicros_front_r Config.cfg driver before _).trans ?_
  simp [accept, driver, Affine.zero]

end Sys2Proof.Machine
end

section
/-! PROOFS. The invariant of a run (spec 10_state.md R45; 45_drivers.md R170 to R176; 60_exceptions.md R240):
a busy core is at a position of its command's list, so every step goes on to a state of the same kind. -/

namespace Sys2Proof.Machine

/-! ### The positions of a list are closed under the sequencer -/

/-- At a position of a walk to the end the sequencer names a micro-operation; it completes there only after
the last one, and otherwise goes to another of its positions. -/
theorem Plan.Walk.mem_cases {p : Plan} {a : Option Seq} {qs : List Seq} {ms : List MicroOp} {e : Option Seq}
    (hw : p.Walk a qs ms e) (he : e = none) {q : Seq} (hq : q ∈ qs) :
    ∃ m, p.microAt q = some m ∧
      (p.next q = none ∨ (m ∈ ms.dropLast ∧ ∃ q' ∈ qs, p.next q = some q')) := by
  induction hw with
  | nil => cases hq
  | @cons q₀ m qs ms e hm rest ih =>
    obtain rfl | hq := List.mem_cons.mp hq
    · refine ⟨m, hm, ?_⟩
      cases hnext : p.next q with
      | none => exact .inl rfl
      | some q' =>
        rw [hnext, he] at rest
        cases rest with
        | @cons _ m' qs' ms' _ _ _ =>
          exact .inr ⟨by simp, q', by simp, rfl⟩
    · obtain ⟨m', hm', last | ⟨mem, q', hq', hnext⟩⟩ := ih he hq
      · exact ⟨m', hm', .inl last⟩
      · refine ⟨m', hm', .inr ⟨?_, q', List.mem_cons_of_mem _ hq', hnext⟩⟩
        have hne : ms ≠ [] := fun e => by simp [e] at mem
        rw [List.dropLast_cons_of_ne_nil hne]
        exact List.mem_cons_of_mem _ mem

theorem Plan.Walk.mem_start {p : Plan} {q : Seq} {qs : List Seq} {ms : List MicroOp}
    (hw : p.Walk (some q) qs ms none) : q ∈ qs := by
  cases hw
  exact List.mem_cons_self ..

theorem planOf_mem_positions {i : Instr} {q : Seq} (hq : q ∈ (planOf i).positions) :
    ∃ m, (planOf i).microAt q = some m ∧
      ((planOf i).next q = none ∨
        ((i.isDriver = true → m ≠ .mask ∧ m ≠ .affine) ∧
          ∃ q' ∈ (planOf i).positions, (planOf i).next q = some q')) := by
  obtain ⟨m, hm, last | ⟨mem, next⟩⟩ := (planOf_regular i).walk.mem_cases rfl hq
  · exact ⟨m, hm, .inl last⟩
  · refine ⟨m, hm, .inr ⟨fun driver => ?_, next⟩⟩
    rw [planOf_program_of_driver driver, List.dropLast_concat] at mem
    exact planOf_front_forall driver m mem

/-- No position is in `IDLE` or `DONE`. -/
theorem phase_of_mem_positions {p : Plan} {q : Seq} (hq : q ∈ p.positions) :
    q.phase ≠ .idle ∧ q.phase ≠ .done := by
  have phase {ph : Phase} {ii : BitVec 8} {ms : List MicroOp} (h : q ∈ phasePositions ph ii ms) :
      q.phase = ph := by
    obtain ⟨j, -, rfl⟩ := List.mem_map.mp h
    rfl
  simp only [Plan.positions, List.mem_append] at hq
  obtain (((((h | h) | h) | h) | h) | h) | h := hq
  case inl.inl.inl.inr =>
    cases hl : p.ladder with
    | none => simp [hl] at h
    | some l =>
      rw [hl] at h
      obtain ⟨ii, -, h⟩ := List.mem_flatMap.mp h
      rw [phase h]
      decide
  all_goals
    rw [phase h]
    decide

/-! ### The invariant by its parts -/

theorem inProgressOk_iff (s : State) :
    inProgressOk s = true ↔
      ∃ i, latched s.opl s.mcl = some i ∧ s.seq ∈ (planOf i).positions ∧
        (i.isDriver = true → s.r = .zero) := by
  unfold inProgressOk
  cases latched s.opl s.mcl with
  | none => simp
  | some i =>
    simp only [Bool.and_eq_true, List.contains_iff_mem, Bool.or_eq_true, Bool.not_eq_true', beq_iff_eq,
      Option.some.injEq, exists_eq_left']
    cases i.isDriver <;> simp

theorem runInv_of_idle {s : State} (idle : s.busy = false) :
    runInv s = true ↔
      (s.done = false ∧ s.seq.phase = .idle) ∨ (s.done = true ∧ s.seq.phase = .done) := by
  unfold runInv
  rw [idle]
  cases s.done <;> cases s.seq.phase <;> simp

theorem runInv_of_busy {s : State} (busy : s.busy = true) :
    runInv s = true ↔ s.done = false ∧ inProgressOk s = true := by
  unfold runInv
  simp only [busy, Bool.true_and, if_true, Bool.and_eq_true, Bool.not_eq_true', beq_iff_eq]
  constructor
  · rintro ⟨⟨notDone, -⟩, progress⟩
    exact ⟨notDone, progress⟩
  · rintro ⟨notDone, progress⟩
    obtain ⟨i, -, hq, -⟩ := (inProgressOk_iff s).mp progress
    refine ⟨⟨notDone, ?_⟩, progress⟩
    rw [notDone]
    exact (beq_eq_false_iff_ne.mpr (phase_of_mem_positions hq).2).symm

/-- The fields the invariant speaks of. -/
structure SameControl (s t : State) : Prop where
  busy : t.busy = s.busy
  done : t.done = s.done
  seq : t.seq = s.seq
  opl : t.opl = s.opl
  mcl : t.mcl = s.mcl
  r : t.r = s.r

theorem SameControl.runInv {s t : State} (h : SameControl s t) : runInv t = runInv s := by
  simp only [Sys2Proof.runInv, inProgressOk, h.busy, h.done, h.seq, h.opl, h.mcl, h.r]

/-! ### Every step keeps it -/

theorem runInv_accept (i : Instr) (s : State) : runInv (accept i s) = true := by
  refine (runInv_of_busy rfl).mpr ⟨rfl, (inProgressOk_iff _).mpr ⟨i, latched_of_instr i, ?_, ?_⟩⟩
  · exact (planOf_regular i).walk.mem_start
  · intro driver
    simp [accept, driver]

theorem runInv_complete (s : State) : runInv (complete s) = true :=
  (runInv_of_idle rfl).mpr (.inr ⟨rfl, rfl⟩)

theorem runInv_coreStep {cfg : Cfg} {s t : State} (inv : runInv s = true) (h : coreStep cfg s = .next t) :
    runInv t = true := by
  obtain ⟨-, rfl⟩ | ⟨i, m, busy, hi, hm, rfl⟩ := coreStep_cases h
  · exact inv
  obtain ⟨notDone, progress⟩ := (runInv_of_busy busy).mp inv
  obtain ⟨j, hj, hq, hr⟩ := (inProgressOk_iff s).mp progress
  obtain rfl : i = j := Option.some.inj (hi.symm.trans hj)
  have keeps := runMicro_keeps cfg m s
  obtain ⟨m', hm', last | ⟨front, q', hq', next⟩⟩ := planOf_mem_positions hq
  · rw [microStep_of_last last]
    exact runInv_complete _
  · obtain rfl : m = m' := Option.some.inj (hm.symm.trans hm')
    rw [microStep_of_next next]
    refine (runInv_of_busy (s := { runMicro cfg m s with seq := q' }) (keeps.busy.trans busy)).mpr
      ⟨keeps.done.trans notDone, ?_⟩
    refine (inProgressOk_iff _).mpr ⟨i, by rw [keeps.opl, keeps.mcl]; exact hi, hq', fun driver => ?_⟩
    obtain ⟨notMask, notAffine⟩ := front driver
    exact (runMicro_keepsAll cfg m s notMask notAffine).r.trans (hr driver)

theorem runInv_writeCmd {s : State} (inv : runInv s = true) (w : Limb) : runInv (writeCmd w s) = true := by
  obtain ⟨-, h⟩ | ⟨i, -, -, h⟩ | ⟨r, -, -, h⟩ := writeCmd_cases w s <;> rw [h]
  · exact (SameControl.mk rfl rfl rfl rfl rfl rfl : SameControl s (raiseErrBusy s)).runInv.trans inv
  · exact runInv_accept i s
  · exact (SameControl.mk rfl rfl rfl rfl rfl rfl : SameControl s (raiseErrOp s)).runInv.trans inv

theorem sameControl_setOperandLimb (s : State) (r : OperandReg) (j : Nat) (v : Limb) :
    SameControl s (s.setOperandLimb r j v) := by
  cases r <;> exact ⟨rfl, rfl, rfl, rfl, rfl, rfl⟩

theorem runInv_hostWrite {s : State} (inv : runInv s = true) (wa : WordAddr) (v : Limb) :
    runInv (hostWrite wa v s) = true := by
  obtain ⟨-, h⟩ | ⟨-, h⟩ | ⟨r, j, -, -, h⟩ | ⟨r, j, -, -, h⟩ | h := hostWrite_cases wa v s <;> rw [h]
  · exact runInv_writeCmd inv v
  · exact (SameControl.mk rfl rfl rfl rfl rfl rfl : SameControl s (clearErrors v s)).runInv.trans inv
  · exact (SameControl.mk rfl rfl rfl rfl rfl rfl : SameControl s (raiseErrBusy s)).runInv.trans inv
  · exact (sameControl_setOperandLimb s r j v).runInv.trans inv
  · exact (SameControl.mk rfl rfl rfl rfl rfl rfl : SameControl s (raiseErrAddr s)).runInv.trans inv

theorem runInv_exec {i : Instr} {s t : State} (inv : runInv s = true) (h : exec i s = .next t) :
    runInv t = true := by
  rw [exec_next, Host.Outcome.next.injEq] at h
  rw [← h]
  split
  · exact (SameControl.mk rfl rfl rfl rfl rfl rfl : SameControl s (raiseErrBusy s)).runInv.trans inv
  · exact runInv_complete _

theorem runInv_commandTurn {w : Limb} {s t : State} (inv : runInv s = true)
    (h : commandTurn w s = .next t) : runInv t = true := by
  obtain ⟨i, -, h'⟩ | ⟨r, -, h'⟩ := commandTurn_cases w s <;> rw [h'] at h
  · exact runInv_exec inv h
  · obtain rfl := Host.Outcome.next.inj h
    exact runInv_writeCmd inv w

/-- Taking a turn off the list is no change the invariant sees. -/
theorem runInv_setTurns (s : State) (ts : List Turn) : runInv { s with turns := ts } = runInv s :=
  SameControl.runInv ⟨rfl, rfl, rfl, rfl, rfl, rfl⟩

/-- Settles O34: after reset the core is idle, in `IDLE`. -/
theorem runInvariantAtReset : Obligations.RunInvariantAtReset :=
  (runInv_of_idle rfl).mpr (.inl ⟨rfl, rfl⟩)

/-- Settles O35: one lemma for each kind of turn. -/
theorem stepKeepsRunInvariant : Obligations.StepKeepsRunInvariant := by
  intro s t inv h
  have inv' (rest : List Turn) : runInv { s with turns := rest } = true :=
    (runInv_setTurns s rest).trans inv
  obtain ⟨-, h⟩ | ⟨rest, -, h⟩ | ⟨wa, v, rest, -, rfl⟩ | ⟨wa, rest, -, rfl⟩ | ⟨w, rest, -, h⟩ |
    ⟨rest, -, rfl⟩ := step_cases h
  · exact runInv_coreStep inv h
  · exact runInv_coreStep (inv' rest) h
  · exact runInv_hostWrite (inv' rest) wa v
  · exact (SameControl.runInv ⟨rfl, rfl, rfl, rfl, rfl, rfl⟩).trans inv
  · exact runInv_commandTurn (inv' rest) h
  · exact runInvariantAtReset

/-! ### No step faults (60_exceptions.md R240) -/

theorem coreStep_of_runInv (cfg : Cfg) {s : State} (inv : runInv s = true) :
    ∃ t, coreStep cfg s = .next t := by
  cases busy : s.busy with
  | false => exact ⟨s, coreStep_idle cfg busy⟩
  | true =>
    obtain ⟨i, hi, hq, -⟩ := (inProgressOk_iff s).mp ((runInv_of_busy busy).mp inv).2
    obtain ⟨m, hm, -⟩ := planOf_mem_positions hq
    exact ⟨_, coreStep_busy cfg busy hi hm⟩

/-- Settles O36: only a core step can fault, and at a position of its command's list it does not. -/
theorem nothingFaults : Obligations.NothingFaults := by
  intro s inv
  cases ht : s.turns with
  | nil =>
    rw [step_of_nil ht]
    exact coreStep_of_runInv _ inv
  | cons turn rest =>
    rw [step_of_cons ht]
    cases turn with
    | write wa v => exact ⟨_, rfl⟩
    | read wa => exact ⟨_, rfl⟩
    | core => exact coreStep_of_runInv _ ((runInv_setTurns s rest).trans inv)
    | command w =>
      obtain ⟨i, -, h⟩ | ⟨r, -, h⟩ := commandTurn_cases w { s with turns := rest }
      · exact ⟨_, h.trans (exec_next i _)⟩
      · exact ⟨_, h⟩
    | reset => exact ⟨_, rfl⟩

/-! ### The order of the phases (45_drivers.md R171) -/

theorem Plan.enterFirst_phase {p : Plan} {ii : BitVec 8} {phs : List Phase} {q : Seq}
    (h : p.enterFirst ii phs = some q) : q.phase ∈ phs := by
  induction phs with
  | nil => cases h
  | cons ph phs ih =>
    rw [enterFirst] at h
    split at h
    next => exact List.mem_cons_of_mem _ (ih h)
    next =>
      obtain rfl := Option.some.inj h
      exact List.mem_cons_self ..

theorem phaseCode_le_of_mem_laterPhases {ph ph' : Phase} (h : ph' ∈ laterPhases ph) :
    (phaseCode ph).toNat ≤ (phaseCode ph').toNat := by
  revert ph'
  cases ph <;> decide

/-- The next position is in the same phase or a later one. -/
theorem Plan.next_phase {p : Plan} {q q' : Seq} (h : p.next q = some q') :
    (phaseCode q.phase).toNat ≤ (phaseCode q'.phase).toNat := by
  rw [next] at h
  split at h
  next =>
    obtain rfl := Option.some.inj h
    exact le_rfl
  next =>
    split at h
    next =>
      obtain rfl := Option.some.inj h
      exact le_rfl
    next => exact phaseCode_le_of_mem_laterPhases (enterFirst_phase h)

theorem phaseCode_le_done (ph : Phase) : (phaseCode ph).toNat ≤ (phaseCode .done).toNat := by
  cases ph <;> decide

/-- Settles O32: a core step goes to the next position or completes, and `DONE` is the last phase. -/
theorem phaseNeverDecreases : Obligations.PhaseNeverDecreases := by
  intro cfg s t inv busy h
  obtain ⟨-, rfl⟩ | ⟨i, m, -, -, -, rfl⟩ := coreStep_cases h
  · exact le_rfl
  · obtain ⟨q, next, h⟩ | ⟨-, h⟩ := microStep_cases cfg (planOf i) m s <;> rw [h]
    · exact Plan.next_phase next
    · exact phaseCode_le_done _

/-! ### What decides the next position (45_drivers.md R174) -/

/-- Settles O31: both steps walk the list of the same command from the same position, and a
micro-operation keeps the status. -/
theorem sequencerIgnoresData : Obligations.SequencerIgnoresData := by
  intro cfg s t s' t' busy busy' hopl hmcl hseq hs ht
  obtain ⟨idle, -⟩ | ⟨i, m, -, hi, hm, rfl⟩ := coreStep_cases hs
  · exact absurd (busy.symm.trans idle) (by decide)
  obtain ⟨idle, -⟩ | ⟨i', m', -, hi', hm', rfl⟩ := coreStep_cases ht
  · exact absurd (busy'.symm.trans idle) (by decide)
  rw [hopl, hmcl, hi', Option.some.injEq] at hi
  subst hi
  rw [hseq, hm', Option.some.injEq] at hm
  subst hm
  have ks := runMicro_keeps cfg m' s
  have kt := runMicro_keeps cfg m' t
  cases next : (planOf i').next t.seq with
  | none =>
    rw [microStep_of_last next, microStep_of_last (hseq ▸ next)]
    exact ⟨by rw [complete_seq, complete_seq, ks.seq, kt.seq, hseq], by rw [complete_busy, complete_busy],
      fun _ => by rw [complete_done, complete_done]⟩
  | some q =>
    rw [microStep_of_next next, microStep_of_next (hseq ▸ next)]
    exact ⟨rfl, (ks.busy.trans busy).trans (kt.busy.trans busy').symm,
      fun done => (ks.done.trans done).trans kt.done.symm⟩

end Sys2Proof.Machine
end

section
/-! PROOFS. The error flags (spec 60_exceptions.md R242 to R245; 20_memory.md R71): they stay until they are
cleared, and nothing the core does depends on them. -/

namespace Sys2Proof.Machine

/-! ### The flags stay (R245) -/

/-- Each error flag that is set before is set after. -/
structure FlagsStay (s t : State) : Prop where
  errOp : s.errOp = true → t.errOp = true
  errBusy : s.errBusy = true → t.errBusy = true
  errAddr : s.errAddr = true → t.errAddr = true

theorem flagsStay_raiseErrBusy (s : State) : FlagsStay s (raiseErrBusy s) := ⟨id, fun _ => rfl, id⟩

theorem flagsStay_writeCmd (w : Limb) (s : State) : FlagsStay s (writeCmd w s) := by
  obtain ⟨-, h⟩ | ⟨i, -, -, h⟩ | ⟨r, -, -, h⟩ := writeCmd_cases w s <;> rw [h]
  · exact flagsStay_raiseErrBusy s
  · exact ⟨id, id, id⟩
  · exact ⟨fun _ => rfl, id, id⟩

theorem flagsStay_hostWrite {wa : WordAddr} (v : Limb) (s : State) (h : wa ≠ 0x001#12) :
    FlagsStay s (hostWrite wa v s) := by
  obtain ⟨-, h⟩ | ⟨hr, -⟩ | ⟨r, j, -, -, h⟩ | ⟨r, j, -, -, h⟩ | h := hostWrite_cases wa v s
  · exact h ▸ flagsStay_writeCmd v s
  · have ha : wa.toNat = (0x001#12).toNat := (regionOf_eq_iff ..).mp hr
    exact absurd (BitVec.eq_of_toNat_eq ha) h
  · exact h ▸ flagsStay_raiseErrBusy s
  · rw [h]
    exact ⟨by rw [State.setOperandLimb_errOp]; exact id, by rw [State.setOperandLimb_errBusy]; exact id,
      by rw [State.setOperandLimb_errAddr]; exact id⟩
  · exact h ▸ ⟨id, id, fun _ => rfl⟩

theorem flagsStay_of_keeps {s t : State} (h : Keeps s t) : FlagsStay s t :=
  ⟨h.errOp.trans, h.errBusy.trans, h.errAddr.trans⟩

theorem flagsStay_coreStep {cfg : Cfg} {s t : State} (h : coreStep cfg s = .next t) : FlagsStay s t := by
  obtain ⟨-, rfl⟩ | ⟨i, m, -, -, -, rfl⟩ := coreStep_cases h
  · exact ⟨id, id, id⟩
  · have stay := flagsStay_of_keeps (runMicro_keeps cfg m s)
    obtain ⟨q, -, h⟩ | ⟨-, h⟩ := microStep_cases cfg (planOf i) m s <;> rw [h]
    · exact ⟨stay.errOp, stay.errBusy, stay.errAddr⟩
    · exact ⟨stay.errOp, stay.errBusy, stay.errAddr⟩

/-- A whole command keeps what no micro-operation writes, but for the sequencer, the status and the trace
(10_state.md R46). -/
theorem runPlan_keeps (cfg : Cfg) (i : Instr) (p : Plan) (s : State) :
    Keeps (accept i s) (runMicros cfg p.program (accept i s)) := runMicros_keeps ..

theorem flagsStay_exec {i : Instr} {s t : State} (h : exec i s = .next t) : FlagsStay s t := by
  rw [exec_next, Host.Outcome.next.injEq] at h
  rw [← h]
  split
  · exact flagsStay_raiseErrBusy s
  · have stay := flagsStay_of_keeps (runPlan_keeps Config.cfg i (planOf i) s)
    exact ⟨stay.errOp, stay.errBusy, stay.errAddr⟩

theorem flagsStay_commandTurn {w : Limb} {s t : State} (h : commandTurn w s = .next t) :
    FlagsStay s t := by
  obtain ⟨i, -, h'⟩ | ⟨r, -, h'⟩ := commandTurn_cases w s <;> rw [h'] at h
  · exact flagsStay_exec h
  · obtain rfl := Host.Outcome.next.inj h
    exact flagsStay_writeCmd w s

/-- A write of `STATUS` clears the flags whose bits are 1 (30_encoding.md R84). -/
theorem clearErrors_stay (v : Limb) (s : State) :
    (s.errOp = true → v.getLsbD 8 ≠ true → (clearErrors v s).errOp = true) ∧
      (s.errBusy = true → v.getLsbD 9 ≠ true → (clearErrors v s).errBusy = true) ∧
      (s.errAddr = true → v.getLsbD 10 ≠ true → (clearErrors v s).errAddr = true) := by
  simp only [clearErrors, Bool.and_eq_true, Bool.not_eq_true', ne_eq, Bool.not_eq_true]
  exact ⟨And.intro, And.intro, And.intro⟩

/-- Settles O15: only a write of `STATUS` and the reset event lower a flag. -/
theorem errorFlagsAreSticky : Obligations.ErrorFlagsAreSticky := by
  intro s t h noReset
  have of_stay (h : FlagsStay s t) :
      (s.errOp = true → (∀ v rest, v.getLsbD 8 = true → s.turns ≠ .write 0x001#12 v :: rest) →
        t.errOp = true) ∧
      (s.errBusy = true → (∀ v rest, v.getLsbD 9 = true → s.turns ≠ .write 0x001#12 v :: rest) →
        t.errBusy = true) ∧
      (s.errAddr = true → (∀ v rest, v.getLsbD 10 = true → s.turns ≠ .write 0x001#12 v :: rest) →
        t.errAddr = true) :=
    ⟨fun e _ => h.errOp e, fun e _ => h.errBusy e, fun e _ => h.errAddr e⟩
  obtain ⟨-, h⟩ | ⟨rest, -, h⟩ | ⟨wa, v, rest, ht, rfl⟩ | ⟨wa, rest, -, rfl⟩ | ⟨w, rest, -, h⟩ |
    ⟨rest, ht, -⟩ := step_cases h
  · exact of_stay (flagsStay_coreStep h)
  · have stay := flagsStay_coreStep h
    exact of_stay ⟨stay.errOp, stay.errBusy, stay.errAddr⟩
  · by_cases status : wa = 0x001#12
    · subst status
      obtain ⟨op, busy, addr⟩ := clearErrors_stay v { s with turns := rest }
      exact ⟨fun e n => op e fun b => n v rest b ht, fun e n => busy e fun b => n v rest b ht,
        fun e n => addr e fun b => n v rest b ht⟩
    · have stay := flagsStay_hostWrite v { s with turns := rest } status
      exact of_stay ⟨stay.errOp, stay.errBusy, stay.errAddr⟩
  · exact of_stay ⟨id, id, id⟩
  · have stay := flagsStay_commandTurn h
    exact of_stay ⟨stay.errOp, stay.errBusy, stay.errAddr⟩
  · exact absurd ht (noReset rest)

/-! ### Nothing depends on them -/

/-- Settles O16: no micro-operation reads or writes a flag. -/
theorem errorFlagsDoNotAffectCommands : Obligations.ErrorFlagsDoNotAffectCommands := by
  intro i s a b c idle
  have keeps := runPlan_keeps Config.cfg i (planOf i) s
  refine ⟨runPlan Config.cfg i (planOf i) s, ?_, keeps.errOp, keeps.errBusy, keeps.errAddr, ?_⟩
  · rw [exec_eq, runCommand_idle _ _ _ _ idle]
  · have acceptFlags : accept i { s with errOp := a, errBusy := b, errAddr := c } =
        { accept i s with errOp := a, errBusy := b, errAddr := c } := rfl
    rw [exec_eq, runCommand_idle _ _ _ _ (by exact idle), runPlan, acceptFlags, runMicros_setErrors]
    rfl

/-- While busy a host write changes the error flags alone (20_memory.md R71). -/
theorem hostWrite_of_busy (wa : WordAddr) (v : Limb) {s : State} (busy : s.busy = true) :
    ∃ a b c, hostWrite wa v s = { s with errOp := a, errBusy := b, errAddr := c } := by
  obtain ⟨-, h⟩ | ⟨-, h⟩ | ⟨r, j, -, -, h⟩ | ⟨r, j, -, idle, -⟩ | h := hostWrite_cases wa v s
  · obtain ⟨-, h'⟩ | ⟨i, idle, -⟩ | ⟨r, idle, -⟩ := writeCmd_cases v s
    · exact ⟨_, _, _, h.trans h'⟩
    · exact absurd (busy.symm.trans idle) (by decide)
    · exact absurd (busy.symm.trans idle) (by decide)
  · exact ⟨_, _, _, h⟩
  · exact ⟨_, _, _, h⟩
  · exact absurd (busy.symm.trans idle) (by decide)
  · exact ⟨_, _, _, h⟩

theorem coreStep_setErrors {cfg : Cfg} {s t : State} (h : coreStep cfg s = .next t) (a b c : Bool) :
    ∃ a' b' c', coreStep cfg { s with errOp := a, errBusy := b, errAddr := c } =
      .next { t with errOp := a', errBusy := b', errAddr := c' } := by
  obtain ⟨idle, rfl⟩ | ⟨i, m, busy, hi, hm, rfl⟩ := coreStep_cases h
  · exact ⟨a, b, c, coreStep_idle cfg idle⟩
  · refine ⟨a, b, c, ?_⟩
    rw [coreStep_busy cfg (s := { s with errOp := a, errBusy := b, errAddr := c }) busy hi hm]
    cases next : (planOf i).next s.seq with
    | none =>
      rw [microStep_of_last next, microStep_of_last (by exact next), runMicro_setErrors]
      rfl
    | some q => rw [microStep_of_next next, microStep_of_next (by exact next), runMicro_setErrors]

/-- Settles O33: the write leaves a flag behind, and the core step does not look at it. -/
theorem hostCannotDisturbACommand : Obligations.HostCannotDisturbACommand := by
  intro cfg s t wa v busy h
  obtain ⟨a, b, c, hw⟩ := hostWrite_of_busy wa v busy
  rw [hw]
  exact coreStep_setErrors h a b c

end Sys2Proof.Machine
end

section
/-! PROOFS. `MASK_SCALAR` (spec 40_scalar_masking.md R100, R101). -/

namespace Sys2Proof.Machine

theorem exec_idle (i : Instr) {s : State} (idle : s.busy = false) :
    exec i s = .next (runPlan Config.cfg i (planOf i) s) := by
  rw [exec_eq, runCommand_idle _ _ _ _ idle]

/-! ### The masked scalar -/

theorem topMask_getLsbD (i : Nat) : (0x07FFFFFFFFFFFFFF#64).getLsbD i = decide (i < 59) := by
  rw [show 0x07FFFFFFFFFFFFFF#64 = BitVec.ofNat 64 (2 ^ 59 - 1) from rfl, BitVec.getLsbD_ofNat,
    Nat.testBit_two_pow_sub_one]
  grind

theorem maskScalar_getLsbD (k : U256) (i : Nat) :
    (maskScalar k).getLsbD i = (decide (i < 251) && k.getLsbD i) := by
  simp only [maskScalar, setLimb, Nat.reduceEqDiff, if_true, if_false, OfNat.ofNat_ne_zero,
    OfNat.ofNat_ne_one, ofLimbs_getLsbD, BitVec.getLsbD_and, limb_getLsbD,
    topMask_getLsbD]
  grind

theorem maskScalar_eq_and (k : U256) : maskScalar k = k &&& BitVec.ofNat 256 (2 ^ 251 - 1) := by
  refine BitVec.eq_of_getLsbD_eq fun i hi => ?_
  rw [maskScalar_getLsbD, BitVec.getLsbD_and, BitVec.getLsbD_ofNat, Nat.testBit_two_pow_sub_one,
    decide_eq_true hi, Bool.true_and, Bool.and_comm]

theorem maskScalar_toNat (k : U256) : (maskScalar k).toNat = k.toNat % 2 ^ 251 := by
  rw [maskScalar_eq_and, BitVec.toNat_and, BitVec.toNat_ofNat, Nat.mod_eq_of_lt (by omega),
    Nat.and_two_pow_sub_one_eq_mod]

theorem maskScalar_maskScalar (k : U256) : maskScalar (maskScalar k) = maskScalar k := by
  refine BitVec.eq_of_toNat_eq ?_
  rw [maskScalar_toNat, maskScalar_toNat, Nat.mod_mod]

/-- Eight bits below the cleared ones are kept. -/
theorem maskScalar_byte (k : U256) {n : Nat} (hn : n < 31) :
    (maskScalar k).extractLsb' (8 * n) 8 = k.extractLsb' (8 * n) 8 := by
  refine BitVec.eq_of_getLsbD_eq fun i hi => ?_
  rw [BitVec.getLsbD_extractLsb', BitVec.getLsbD_extractLsb', maskScalar_getLsbD,
    decide_eq_true (show 8 * n + i < 251 by omega), Bool.true_and]

theorem maskScalar_topByte (k : U256) :
    (maskScalar k).extractLsb' 248 8 = k.extractLsb' 248 8 &&& 0x07#8 := by
  refine BitVec.eq_of_getLsbD_eq fun i hi => ?_
  have low : (0x07#8).getLsbD i = decide (i < 3) := by
    interval_cases i <;> rfl
  rw [BitVec.getLsbD_extractLsb', BitVec.getLsbD_and, BitVec.getLsbD_extractLsb', maskScalar_getLsbD, low]
  grind

/-! ### The command -/

/-- The state after `MASK_SCALAR` (R100, R172, R173). -/
theorem exec_maskScalar {s : State} (idle : s.busy = false) :
    exec .maskScalar s = .next
      { s with
        ka := maskScalar s.ka
        opl := 1, mcl := false, busy := false, done := true
        seq := { phase := .done, ii := 0, sub := 0 }
        trace := [] } :=
  exec_idle .maskScalar idle

/-- Settles O21: the list is one micro-operation, so the command is one core step. -/
theorem maskScalarResult : Obligations.MaskScalarResult := by
  intro s idle
  rw [exec_maskScalar idle, maskScalar_eq_and]
  refine ⟨rfl, rfl, ?_⟩
  rw [← maskScalar_eq_and]
  exact coreStep_busy Config.cfg (s := accept .maskScalar s) rfl (latched_of_instr .maskScalar) rfl

/-- Settles O22: the value of a masked scalar is the old one modulo `2^251`, its bits the low 251. -/
theorem maskScalarProperties : Obligations.MaskScalarProperties := by
  intro s idle
  have below : (maskScalar s.ka).toNat < 2 ^ 251 := by
    rw [maskScalar_toNat]
    exact Nat.mod_lt _ (by norm_num)
  refine ⟨_, _, exec_maskScalar idle, exec_maskScalar rfl, maskScalar_maskScalar s.ka, below,
    fun q hq => below.trans hq, fun h => BitVec.eq_of_toNat_eq ?_, fun n hn => maskScalar_byte s.ka hn,
    maskScalar_topByte s.ka, ?_⟩
  · rw [maskScalar_toNat, h]
    rfl
  · exact ⟨_, _, exec_maskScalar idle, exec_maskScalar rfl, maskScalar_maskScalar s.ka,
      maskScalar_getLsbD s.ka⟩

end Sys2Proof.Machine
end

section
/-! PROOFS. What the drivers leave in every register (spec 45_drivers.md R178 to R191; 30_encoding.md R83):
the working registers that a command's list writes after `SETUP`, and the values `SETUP` leaves. -/

namespace Sys2Proof.Machine

/-! ### After `SETUP` -/

/-- A command's list after its `SETUP` phase. -/
def Plan.work (p : Plan) : List MicroOp :=
  p.tableBuild ++ p.seed ++ (p.ladder.map Ladder.program).getD [] ++ p.correct ++ p.cofactor ++ p.affine

theorem Plan.program_eq_setup_work (p : Plan) : p.program = p.setup ++ p.work := by
  simp only [program, work, List.append_assoc]

/-- The registers a command writes after its `SETUP` phase. -/
def workRegs : Instr → List Reg
  | .maskScalar => []
  | .mul => [.tab, .ts, .tt, .x, .r]
  | .mulGen _ => [.ts, .tt, .x, .r]
  | .simul => [.tab, .tt, .x, .r]
  | .simulGen => [.tab, .ts, .tt, .x, .r]

theorem planOf_work_writes (i : Instr) : ∀ m ∈ (planOf i).work, m.writes ⊆ workRegs i := by
  have ladder (p : Plan) (l : Ladder) (hl : p.ladder = some l)
      (h : ∀ ii, ∀ m ∈ l.body ii, m.writes ⊆ workRegs i) :
      ∀ m ∈ (p.ladder.map Ladder.program).getD [], m.writes ⊆ workRegs i :=
    Plan.forall_mem_ladder fun l' hl' => by
      obtain rfl : l = l' := Option.some.inj (hl.symm.trans hl')
      exact h
  simp only [Plan.work, List.forall_mem_append]
  cases i with
  | maskScalar => simp [planOf, maskPlan]
  | mul =>
    refine ⟨⟨⟨⟨⟨?_, ?_⟩, ladder _ _ rfl fun ii => ?_⟩, ?_⟩, ?_⟩, ?_⟩ <;>
      simp [planOf, mulPlan, window2Ops, cofactorOps, MicroOp.writes, workRegs, PointReg.reg]
  | mulGen mc =>
    refine ⟨⟨⟨⟨⟨?_, ?_⟩, ladder _ _ rfl fun ii => ?_⟩, ?_⟩, ?_⟩, ?_⟩ <;> cases mc <;>
      simp [planOf, mulGenPlan, cofactorOps, MicroOp.writes, workRegs]
  | simul =>
    refine ⟨⟨⟨⟨⟨?_, ?_⟩, ladder _ _ rfl fun ii => ?_⟩, ?_⟩, ?_⟩, ?_⟩ <;>
      simp [planOf, simulPlan, cofactorOps, MicroOp.writes, workRegs, PointReg.reg]
  | simulGen =>
    refine ⟨⟨⟨⟨⟨?_, ?_⟩, ladder _ _ rfl fun ii => ?_⟩, ?_⟩, ?_⟩, ?_⟩
    case refine_3 =>
      simp only
      split <;> simp [window2Ops, mixedOps, MicroOp.writes, workRegs, PointReg.reg]
    all_goals simp [planOf, simulGenPlan, cofactorOps, MicroOp.writes, workRegs, PointReg.reg]

/-- Completion writes no data register. -/
theorem sameIn_runPlan (cfg : Cfg) (i : Instr) (p : Plan) (s : State) (reg : Reg) :
    SameIn (runMicros cfg p.program (accept i s)) (runPlan cfg i p s) reg := by
  cases reg <;> rfl

/-- What a command leaves in a register that it writes in `SETUP` at most. -/
theorem sameIn_afterSetup (cfg : Cfg) (i : Instr) (s : State) {reg : Reg} (h : reg ∉ workRegs i) :
    SameIn (runMicros cfg (planOf i).setup (accept i s)) (runPlan cfg i (planOf i) s) reg := by
  refine SameIn.trans ?_ (sameIn_runPlan cfg i (planOf i) s reg)
  rw [Plan.program_eq_setup_work, runMicros_append]
  exact runMicros_sameIn_of_notMem_writes cfg _ _ fun m hm hreg => h (planOf_work_writes i m hm hreg)

/-- The registers a command writes in its `SETUP` phase. -/
def setupRegs (i : Instr) : List Reg := (planOf i).setup.flatMap MicroOp.writes

/-- A register that no micro-operation of a command writes. -/
theorem sameIn_untouched (cfg : Cfg) (i : Instr) (s : State) {reg : Reg}
    (h : reg ∉ setupRegs i ++ workRegs i) : SameIn (runPlan cfg i (planOf i) s) (accept i s) reg := by
  rw [List.mem_append, not_or] at h
  obtain ⟨hsetup, hwork⟩ := h
  refine (SameIn.trans ?_ (sameIn_afterSetup cfg i s hwork)).symm
  exact runMicros_sameIn_of_notMem_writes cfg _ _ fun m hm hreg =>
    hsetup (List.mem_flatMap.mpr ⟨m, hm, hreg⟩)

/-! ### The status and the host's side -/

theorem planOf_finalIndex (i : Instr) : (planOf i).finalIndex = 0 := by
  cases i <;> rfl

theorem finished_runPlan (cfg : Cfg) (i : Instr) (s : State) : finished (runPlan cfg i (planOf i) s) := by
  refine ⟨rfl, rfl, ?_⟩
  simp only [runPlan, complete, planOf_finalIndex]

theorem runPlan_opl (cfg : Cfg) (i : Instr) (s : State) :
    (runPlan cfg i (planOf i) s).opl = i.opcode ∧ (runPlan cfg i (planOf i) s).mcl = i.cofactor :=
  ⟨(runPlan_keeps cfg i (planOf i) s).opl, (runPlan_keeps cfg i (planOf i) s).mcl⟩

/-- A driver ends with `AFFINE`, which reads `X` (R191). -/
theorem runPlan_r (cfg : Cfg) {i : Instr} (driver : i.isDriver = true) (s : State) :
    (runPlan cfg i (planOf i) s).r = cfg.curve.ecAffine (runPlan cfg i (planOf i) s).x := by
  have hr := sameIn_runPlan cfg i (planOf i) s .r
  have hx := sameIn_runPlan cfg i (planOf i) s .x
  rw [planOf_program_of_driver driver, runMicros_append] at hr hx
  exact Eq.trans hr.symm (congrArg cfg.curve.ecAffine hx)

theorem sameHostSide_runPlan (cfg : Cfg) {i : Instr} (driver : i.isDriver = true) (s : State) :
    sameHostSide s (runPlan cfg i (planOf i) s) := by
  have keeps := runPlan_keeps cfg i (planOf i) s
  have ka : (runPlan cfg i (planOf i) s).ka = s.ka := by
    have front := runMicros_keepsAll cfg (planOf i).front (accept i s)
      (fun h => (planOf_front_forall driver _ h).1 rfl) fun h => (planOf_front_forall driver _ h).2 rfl
    have h := sameIn_runPlan cfg i (planOf i) s .ka
    rw [planOf_program_of_driver driver, runMicros_append] at h
    exact h.symm.trans front.ka
  exact ⟨ka, keeps.kb, keeps.p, keeps.q, keeps.errOp, keeps.errBusy, keeps.errAddr, keeps.turns,
    keeps.reads⟩

/-! ### The values `SETUP` leaves (R178) -/

/-- The signs, recoded words and bases that `DECOMP`, `PREP` and `RECODE2` leave (R110, R178). -/
theorem glvSetup (cfg : Cfg) (k : ScalarReg) (a : OperandPoint) (len : Nat) (s : State) :
    let d := cfg.curve.glsDecompose (s.scalar k)
    let e := cfg.curve.glsMorph (s.operand a).x (s.operand a).y
    let t := runMicros cfg [.decomp k .lo, .prep a .lo, .recode2 len] s
    t.sg0 = d.sa ∧ t.sg1 = d.sb ∧ t.lsb = recodeLsb d.a ∧ t.s0 = recodeSign len d.a ∧
      t.s1 = recodeCompanion len t.s0 d.b ∧
      t.b0 = cfg.curve.ecCondNeg d.sa (cfg.curve.ecExpand (s.operand a).x (s.operand a).y) ∧
      t.b1 = cfg.curve.ecCondNeg d.sb (cfg.curve.ecExpand e.x e.y) := by
  cases a <;> simp [runMicro, prep_eq, Pair.bases, State.signs, recode2, decomp, State.operand]

/-- What the `SETUP` of `SIMUL` leaves (R111, R184). -/
theorem glvSetup4 (cfg : Cfg) (s : State) :
    let d := cfg.curve.glsDecompose s.ka
    let d' := cfg.curve.glsDecompose s.kb
    let e := cfg.curve.glsMorph s.p.x s.p.y
    let e' := cfg.curve.glsMorph s.q.x s.q.y
    let t := runMicros cfg simulPlan.setup s
    (t.sg0 = d.sa ∧ t.sg1 = d.sb ∧ t.sg2 = d'.sa ∧ t.sg3 = d'.sb) ∧
      (t.lsb = recodeLsb d.a ∧ t.s0 = recodeSign 127 d.a ∧ t.s1 = recodeCompanion 127 t.s0 d.b ∧
        t.s2 = recodeCompanion 127 t.s0 d'.a ∧ t.s3 = recodeCompanion 127 t.s0 d'.b) ∧
      t.b0 = cfg.curve.ecCondNeg d.sa (cfg.curve.ecExpand s.p.x s.p.y) ∧
      t.b1 = cfg.curve.ecCondNeg d.sb (cfg.curve.ecExpand e.x e.y) ∧
      t.b2 = cfg.curve.ecCondNeg d'.sa (cfg.curve.ecExpand s.q.x s.q.y) ∧
      t.b3 = cfg.curve.ecCondNeg d'.sb (cfg.curve.ecExpand e'.x e'.y) := by
  simp [simulPlan, runMicro, prep_eq, Pair.bases, State.signs, recode4, decomp, State.scalar,
    State.operand]

/-- The comb recoding `COMBREC` leaves (44_comb_recoders.md R151). -/
theorem combrec_values (cfg : Cfg) (d l : Nat) (s : State) :
    (combrec cfg d l s).clsb = (!s.ka.getLsbD 0) ∧
      (combrec cfg d l s).rb = combRecode d l (combScalar s.ka (cfg.curve.negModQ s.ka)) := ⟨rfl, rfl⟩

/-! ### The drivers -/

/-- Settles O23: `SETUP` leaves the decomposition, the bases and the recoded words, and no later phase
writes them. -/
theorem mulCompletes : Obligations.MulCompletes := by
  intro s idle
  have left {reg : Reg} (hreg : reg ∉ workRegs .mul) := (sameIn_afterSetup Config.cfg .mul s hreg).symm
  have kept {reg : Reg} (hreg : reg ∉ setupRegs .mul ++ workRegs .mul) :=
    sameIn_untouched Config.cfg .mul s hreg
  obtain ⟨sg0, sg1, lsb, s0, s1, b0, b1⟩ := glvSetup Config.cfg .ka .p 128 (accept .mul s)
  have sg0' := Eq.trans (left (reg := .sg0) (by decide)) sg0
  have sg1' := Eq.trans (left (reg := .sg1) (by decide)) sg1
  have s0' := left (reg := .s0) (by decide)
  refine ⟨_, exec_idle .mul idle, runPlan_r _ rfl s, finished_runPlan _ .mul s, (runPlan_opl _ .mul s).1,
    (runPlan_opl _ .mul s).2, sg0', sg1', Eq.trans (left (reg := .lsb) (by decide)) lsb,
    Eq.trans s0' s0, ?_, ?_, ?_, sameHostSide_runPlan _ rfl s, kept (reg := .s2) (by decide),
    kept (reg := .s3) (by decide), kept (reg := .rb) (by decide), kept (reg := .b2) (by decide),
    kept (reg := .b3) (by decide), kept (reg := .sg2) (by decide), kept (reg := .sg3) (by decide),
    kept (reg := .clsb) (by decide)⟩
  · exact Eq.trans (left (reg := .s1) (by decide)) (s1.trans (congrArg (recodeCompanion 128 · _) s0'.symm))
  · exact Eq.trans (left (reg := .b0) (by decide))
      (b0.trans (congrArg (Config.cfg.curve.ecCondNeg · _) sg0'.symm))
  · exact Eq.trans (left (reg := .b1) (by decide))
      (b1.trans (congrArg (Config.cfg.curve.ecCondNeg · _) sg1'.symm))

/-- The micro-operations of `MUL_GEN` after its carry correction. -/
theorem mulGen_program (mc : Bool) :
    ∃ front, (planOf (.mulGen mc)).program =
      front ++ .correctFix :: .correctSign :: ((planOf (.mulGen mc)).cofactor ++ [.affine]) := by
  refine ⟨(planOf (.mulGen mc)).setup ++ (planOf (.mulGen mc)).tableBuild ++ (planOf (.mulGen mc)).seed ++
    ((planOf (.mulGen mc)).ladder.map Ladder.program).getD [], ?_⟩
  simp [Plan.program, planOf, mulGenPlan]

/-- `TS` is left with `GFIX` by the carry correction (45_drivers.md R182). -/
theorem runPlan_mulGen_ts (cfg : Cfg) (mc : Bool) (s : State) :
    (runPlan cfg (.mulGen mc) (planOf (.mulGen mc)) s).ts = gfix cfg := by
  obtain ⟨front, hprogram⟩ := mulGen_program mc
  have h := sameIn_runPlan cfg (.mulGen mc) (planOf (.mulGen mc)) s .ts
  rw [hprogram, runMicros_append, runMicros_cons] at h
  refine Eq.trans h.symm (Eq.trans (SameIn.symm (runMicros_sameIn_of_notMem_writes (reg := .ts) cfg _ _ ?_)) rfl)
  cases mc <;> decide

/-- Settles O24: `SETUP` is the comb recoding, and the later phases write `X`, `TS`, `TT` and `R` alone. -/
theorem mulGenCompletes : Obligations.MulGenCompletes := by
  intro mc s idle
  have left {reg : Reg} (hreg : reg ∉ [Reg.ts, .tt, .x, .r]) :=
    (sameIn_afterSetup Config.cfg (.mulGen mc) s hreg).symm
  have kept {reg : Reg} (hreg : reg ∉ [Reg.rb, .clsb, .ts, .tt, .x, .r]) :=
    sameIn_untouched Config.cfg (.mulGen mc) s hreg
  obtain ⟨clsb, rb⟩ := combrec_values Config.cfg 36 252 (accept (.mulGen mc) s)
  exact ⟨_, exec_idle (.mulGen mc) idle, runPlan_r _ rfl s, finished_runPlan _ _ s, (runPlan_opl _ _ s).1,
    (runPlan_opl _ _ s).2, Eq.trans (left (reg := .clsb) (by decide)) clsb,
    Eq.trans (left (reg := .rb) (by decide)) rb, runPlan_mulGen_ts _ mc s,
    sameHostSide_runPlan _ rfl s, kept (reg := .s0) (by decide),
    kept (reg := .s1) (by decide), kept (reg := .s2) (by decide),
    kept (reg := .s3) (by decide), kept (reg := .b0) (by decide),
    kept (reg := .b1) (by decide), kept (reg := .b2) (by decide),
    kept (reg := .b3) (by decide), kept (reg := .tab) (by decide),
    kept (reg := .sg0) (by decide), kept (reg := .sg1) (by decide),
    kept (reg := .sg2) (by decide), kept (reg := .sg3) (by decide),
    kept (reg := .lsb) (by decide)⟩

/-- Settles O25: as O23, with both decompositions. -/
theorem simulCompletes : Obligations.SimulCompletes := by
  intro s idle
  have left {reg : Reg} (hreg : reg ∉ workRegs .simul) :=
    (sameIn_afterSetup Config.cfg .simul s hreg).symm
  have kept {reg : Reg} (hreg : reg ∉ setupRegs .simul ++ workRegs .simul) :=
    sameIn_untouched Config.cfg .simul s hreg
  obtain ⟨⟨sg0, sg1, sg2, sg3⟩, ⟨lsb, s0, s1, s2, s3⟩, b0, b1, b2, b3⟩ :=
    glvSetup4 Config.cfg (accept .simul s)
  have sg0' := Eq.trans (left (reg := .sg0) (by decide)) sg0
  have sg1' := Eq.trans (left (reg := .sg1) (by decide)) sg1
  have sg2' := Eq.trans (left (reg := .sg2) (by decide)) sg2
  have sg3' := Eq.trans (left (reg := .sg3) (by decide)) sg3
  have s0' := left (reg := .s0) (by decide)
  refine ⟨_, exec_idle .simul idle, runPlan_r _ rfl s, finished_runPlan _ .simul s,
    (runPlan_opl _ .simul s).1, (runPlan_opl _ .simul s).2, sg0', sg1', sg2', sg3',
    Eq.trans (left (reg := .lsb) (by decide)) lsb, Eq.trans s0' s0, ?_, ?_, ?_, ?_, ?_, ?_, ?_,
    sameHostSide_runPlan _ rfl s, kept (reg := .rb) (by decide), kept (reg := .ts) (by decide),
    kept (reg := .clsb) (by decide)⟩
  · exact Eq.trans (left (reg := .s1) (by decide)) (s1.trans (congrArg (recodeCompanion 127 · _) s0'.symm))
  · exact Eq.trans (left (reg := .s2) (by decide)) (s2.trans (congrArg (recodeCompanion 127 · _) s0'.symm))
  · exact Eq.trans (left (reg := .s3) (by decide)) (s3.trans (congrArg (recodeCompanion 127 · _) s0'.symm))
  · exact Eq.trans (left (reg := .b0) (by decide))
      (b0.trans (congrArg (Config.cfg.curve.ecCondNeg · _) sg0'.symm))
  · exact Eq.trans (left (reg := .b1) (by decide))
      (b1.trans (congrArg (Config.cfg.curve.ecCondNeg · _) sg1'.symm))
  · exact Eq.trans (left (reg := .b2) (by decide))
      (b2.trans (congrArg (Config.cfg.curve.ecCondNeg · _) sg2'.symm))
  · exact Eq.trans (left (reg := .b3) (by decide))
      (b3.trans (congrArg (Config.cfg.curve.ecCondNeg · _) sg3'.symm))

/-- The `SETUP` of `SIMUL_GEN` is that of `MUL` for `KB` and `Q`, and then the comb recoding. -/
theorem runMicros_simulGenSetup (cfg : Cfg) (s : State) :
    runMicros cfg (planOf .simulGen).setup s =
      combrec cfg 32 256 (runMicros cfg [.decomp .kb .lo, .prep .q .lo, .recode2 128] s) := rfl

/-- Settles O26: as O23 for `KB` and `Q`, with the comb recoding of `KA` after it. -/
theorem simulGenCompletes : Obligations.SimulGenCompletes := by
  intro s idle
  have left {reg : Reg} (hreg : reg ∉ workRegs .simulGen) :=
    (sameIn_afterSetup Config.cfg .simulGen s hreg).symm
  have kept {reg : Reg} (hreg : reg ∉ setupRegs .simulGen ++ workRegs .simulGen) :=
    sameIn_untouched Config.cfg .simulGen s hreg
  rw [runMicros_simulGenSetup] at left
  have glv {reg : Reg} (hreg : reg ∉ workRegs .simulGen ++ [.rb, .clsb]) :=
    (left (reg := reg) fun h => hreg (List.mem_append_left _ h)).trans
      (combrec_sameIn Config.cfg 32 256 _ fun h => hreg (List.mem_append_right _ h)).symm
  obtain ⟨sg0, sg1, lsb, s0, s1, b0, b1⟩ := glvSetup Config.cfg .kb .q 128 (accept .simulGen s)
  have ka : (runMicros Config.cfg [.decomp .kb .lo, .prep .q .lo, .recode2 128] (accept .simulGen s)).ka =
      s.ka := (runMicros_sameIn_of_notMem_writes (reg := .ka) _ _ _ (by decide)).symm
  obtain ⟨clsb, rb⟩ := combrec_values Config.cfg 32 256
    (runMicros Config.cfg [.decomp .kb .lo, .prep .q .lo, .recode2 128] (accept .simulGen s))
  rw [ka] at clsb rb
  have sg0' := Eq.trans (glv (reg := .sg0) (by decide)) sg0
  have sg1' := Eq.trans (glv (reg := .sg1) (by decide)) sg1
  have s0' := glv (reg := .s0) (by decide)
  refine ⟨_, exec_idle .simulGen idle, runPlan_r _ rfl s, finished_runPlan _ .simulGen s,
    (runPlan_opl _ .simulGen s).1, (runPlan_opl _ .simulGen s).2, sg0', sg1',
    Eq.trans (glv (reg := .lsb) (by decide)) lsb, Eq.trans s0' s0, ?_,
    Eq.trans (left (reg := .clsb) (by decide)) clsb, Eq.trans (left (reg := .rb) (by decide)) rb, ?_, ?_,
    sameHostSide_runPlan _ rfl s, kept (reg := .s2) (by decide), kept (reg := .s3) (by decide),
    kept (reg := .b2) (by decide), kept (reg := .b3) (by decide), kept (reg := .sg2) (by decide),
    kept (reg := .sg3) (by decide)⟩
  · exact Eq.trans (glv (reg := .s1) (by decide)) (s1.trans (congrArg (recodeCompanion 128 · _) s0'.symm))
  · exact Eq.trans (glv (reg := .b0) (by decide))
      (b0.trans (congrArg (Config.cfg.curve.ecCondNeg · _) sg0'.symm))
  · exact Eq.trans (glv (reg := .b1) (by decide))
      (b1.trans (congrArg (Config.cfg.curve.ecCondNeg · _) sg1'.symm))

end Sys2Proof.Machine
end

section
/-! PROOFS. What a command leaves alone in the host register space (spec 20_memory.md R61 to R63;
10_state.md R46), and that its result depends on its operands alone (45_drivers.md R195). -/

namespace Sys2Proof.Machine

/-! ### The frame in the host register space -/

theorem operandReg_of_sameHostSide {s t : State} (h : sameHostSide s t) (r : OperandReg) :
    t.operandReg r = s.operandReg r := by
  obtain ⟨ka, kb, p, q, -⟩ := h
  cases r <;> simp only [State.operandReg, ka, kb, p, q]

theorem hostRead_of_sameHostSide (cfg : Cfg) {s t : State} (h : sameHostSide s t) {wa : WordAddr}
    (notStatus : wa.toNat ≠ 0x001) (notResult : wa.toNat < 0x020 ∨ 0x028 ≤ wa.toNat) :
    hostRead cfg wa t = hostRead cfg wa s := by
  cases hr : regionOf wa with
  | status => exact absurd ((regionOf_eq_iff ..).mp hr) notStatus
  | operand r j => rw [hostRead_operand _ _ hr, hostRead_operand _ _ hr, operandReg_of_sameHostSide h]
  | resultX j =>
    obtain ⟨hj, ha⟩ := (regionOf_eq_iff ..).mp hr
    omega
  | resultY j =>
    obtain ⟨hj, ha⟩ := (regionOf_eq_iff ..).mp hr
    omega
  | _ => simp only [hostRead, hr]

theorem byteOfWord_limb (v : U256) (j : Nat) {n : Nat} (hn : n < 8) :
    byteOfWord (limb v j) n = v.extractLsb' (8 * (8 * j + n)) 8 := by
  refine BitVec.eq_of_getLsbD_eq fun i hi => ?_
  rw [byteOfWord, BitVec.getLsbD_extractLsb', limb_getLsbD, BitVec.getLsbD_extractLsb',
    decide_eq_true (show 8 * n + i < 64 by omega), Bool.true_and]
  congr 2
  omega

/-- Masking changes the top byte of `KA` alone (40_scalar_masking.md R101). -/
theorem readByte_maskScalar (cfg : Cfg) {s t : State} {ba : Nat} (hba : ba < 8 * 4096)
    (ht : t = { s with
      ka := maskScalar s.ka
      opl := 1, mcl := false, busy := false, done := true
      seq := { phase := .done, ii := 0, sub := 0 }
      trace := [] })
    (idle : s.busy = false) (notStatus : ba / 8 ≠ 0x001) (notTop : ba ≠ 8 * 0x00B + 7) :
    readByte cfg ba t = readByte cfg ba s := by
  have toNat : (BitVec.ofNat 12 (ba / 8)).toNat = ba / 8 := by
    rw [BitVec.toNat_ofNat, Nat.mod_eq_of_lt (by omega)]
  unfold readByte
  cases hr : regionOf (BitVec.ofNat 12 (ba / 8)) with
  | status => exact absurd (toNat.symm.trans ((regionOf_eq_iff ..).mp hr)) notStatus
  | operand r j =>
    rw [hostRead_operand _ _ hr, hostRead_operand _ _ hr, ht]
    obtain ⟨hj, ha⟩ := (regionOf_eq_iff ..).mp hr
    rw [toNat] at ha
    cases r with
    | ka =>
      have hbyte : 8 * j + ba % 8 < 31 := by
        simp only [OperandReg.base] at ha
        omega
      simp only [State.operandReg, byteOfWord_limb _ _ (Nat.mod_lt ba (by norm_num : 8 > 0)),
        maskScalar_byte _ hbyte]
    | _ => rfl
  | _ => simp only [hostRead, hr, ht, idle]

/-- Settles O27: a driver writes no operand register, and masking one byte of `KA`. -/
theorem commandsKeepEveryOtherByte : Obligations.CommandsKeepEveryOtherByte := by
  intro i s idle
  by_cases mask : i = .maskScalar
  · subst mask
    exact ⟨_, exec_maskScalar idle, fun ba hba notStatus notTop _ =>
      readByte_maskScalar _ hba rfl idle notStatus (notTop rfl)⟩
  · have driver : i.isDriver = true := by
      cases i with
      | maskScalar => exact absurd rfl mask
      | _ => rfl
    refine ⟨_, exec_idle i idle, fun ba hba notStatus _ notResult => ?_⟩
    have toNat : (BitVec.ofNat 12 (ba / 8)).toNat = ba / 8 := by
      rw [BitVec.toNat_ofNat, Nat.mod_eq_of_lt (by omega)]
    rw [readByte, readByte, hostRead_of_sameHostSide _ (sameHostSide_runPlan _ driver s) (by rwa [toNat])
      (by rw [toNat]; exact notResult mask)]

/-! ### Purity -/

/-- The operand registers a command lists (30_encoding.md R83). -/
def operandRegs : Instr → List Reg
  | .maskScalar => [.ka]
  | .mul => [.ka, .p]
  | .mulGen _ => [.ka]
  | .simul => [.ka, .p, .kb, .q]
  | .simulGen => [.ka, .kb, .q]

theorem sameIn_operandRegs {i : Instr} {s t : State} (h : sameOperands i s t) :
    ∀ reg ∈ operandRegs i, SameIn (accept i s) (accept i t) reg := by
  cases i <;> simpa [operandRegs, sameOperands, SameIn] using h

/-- The reads of a list are known when those of its straight parts and of one iteration are. -/
theorem Plan.readsKnown {p : Plan} {known atLadder : List Reg}
    (before : ReadsKnown known (p.setup ++ p.tableBuild ++ p.seed))
    (enter : atLadder ⊆ knownAfter known (p.setup ++ p.tableBuild ++ p.seed))
    (iteration : ∀ l, p.ladder = some l → ∀ ii, ReadsKnown atLadder (l.body ii))
    (after : ReadsKnown atLadder (p.correct ++ p.cofactor ++ p.affine)) : ReadsKnown known p.program := by
  have ladder : ReadsKnown atLadder ((p.ladder.map Ladder.program).getD []) := by
    cases hl : p.ladder with
    | none => trivial
    | some l => exact .flatMap (iteration l hl) _
  have rest : ReadsKnown atLadder ((p.ladder.map Ladder.program).getD [] ++
      (p.correct ++ p.cofactor ++ p.affine)) :=
    ladder.append (after.mono (List.subset_append_right _ _))
  have all := before.append (rest.mono enter)
  simpa only [program, List.append_assoc] using all

/-- Every micro-operation reads operands of its command, or what an earlier one wrote. -/
theorem planOf_readsKnown (i : Instr) : ReadsKnown (operandRegs i) (planOf i).program := by
  cases i with
  | maskScalar => simp [planOf, maskPlan, Plan.program, ReadsKnown, operandRegs, MicroOp.reads]
  | mul =>
    refine Plan.readsKnown (atLadder := [.tab, .s0, .s1, .lsb, .b0, .x]) ?_ ?_ (fun l hl ii => ?_) ?_
    case refine_3 =>
      obtain rfl := Option.some.inj hl
      simp [window2Ops, ReadsKnown, MicroOp.reads, MicroOp.writes, PointReg.reg]
    all_goals simp [planOf, mulPlan, operandRegs, knownAfter, cofactorOps, ReadsKnown, MicroOp.reads,
      MicroOp.writes, PointReg.reg, ScalarReg.reg, OperandPoint.reg, Pair.decomposed, Pair.signRegs,
      Pair.bases]
  | mulGen mc =>
    refine Plan.readsKnown (atLadder := [.rb, .clsb, .x]) ?_ ?_ (fun l hl ii => ?_) ?_
    case refine_3 =>
      obtain rfl := Option.some.inj hl
      simp [ReadsKnown, MicroOp.reads, MicroOp.writes, PointReg.reg]
    all_goals cases mc <;> simp [planOf, mulGenPlan, operandRegs, knownAfter, cofactorOps, ReadsKnown,
      MicroOp.reads, MicroOp.writes, PointReg.reg]
  | simul =>
    refine Plan.readsKnown (atLadder := [.tab, .s0, .s1, .s2, .s3, .lsb, .b0, .x]) ?_ ?_
      (fun l hl ii => ?_) ?_
    case refine_3 =>
      obtain rfl := Option.some.inj hl
      simp [ReadsKnown, MicroOp.reads, MicroOp.writes, PointReg.reg]
    all_goals simp [planOf, simulPlan, operandRegs, knownAfter, cofactorOps, ReadsKnown, MicroOp.reads,
      MicroOp.writes, PointReg.reg, ScalarReg.reg, OperandPoint.reg, Pair.decomposed, Pair.signRegs,
      Pair.bases]
  | simulGen =>
    refine Plan.readsKnown (atLadder := [.tab, .s0, .s1, .rb, .clsb, .lsb, .b0, .x]) ?_ ?_
      (fun l hl ii => ?_) ?_
    case refine_3 =>
      obtain rfl := Option.some.inj hl
      simp only
      split <;> simp [window2Ops, mixedOps, ReadsKnown, MicroOp.reads, MicroOp.writes, PointReg.reg]
    all_goals simp [planOf, simulGenPlan, operandRegs, knownAfter, cofactorOps, ReadsKnown, MicroOp.reads,
      MicroOp.writes, PointReg.reg, ScalarReg.reg, OperandPoint.reg, Pair.decomposed, Pair.signRegs,
      Pair.bases]

/-- Two runs of a command with the same operands agree on every register it writes. -/
theorem sameIn_runPlan_of_sameOperands (cfg : Cfg) {i : Instr} {s t : State} (h : sameOperands i s t)
    {m : MicroOp} (hm : m ∈ (planOf i).program) {reg : Reg} (hreg : reg ∈ m.writes) :
    SameIn (runPlan cfg i (planOf i) s) (runPlan cfg i (planOf i) t) reg := by
  have run := runMicros_sameIn_of_readsKnown cfg (planOf_readsKnown i) (sameIn_operandRegs h) reg
    (List.mem_append_left _ (List.mem_flatMap.mpr ⟨m, hm, hreg⟩))
  exact (sameIn_runPlan cfg i _ s reg).symm.trans (run.trans (sameIn_runPlan cfg i _ t reg))

/-- Settles O39: `R` and `KA` are written from registers that the operands decide. -/
theorem commandsArePure : Obligations.CommandsArePure := by
  intro i s t idle idle' operands
  refine ⟨_, _, exec_idle i idle, exec_idle i idle', fun driver => ?_, fun mask => ?_⟩
  · have last : MicroOp.affine ∈ (planOf i).program := by
      rw [planOf_program_of_driver driver]
      exact List.mem_append_right _ (List.mem_singleton_self _)
    exact sameIn_runPlan_of_sameOperands Config.cfg operands last (reg := .r) (List.mem_singleton_self _)
  · subst mask
    have only : MicroOp.mask ∈ (planOf .maskScalar).program := List.mem_singleton_self _
    exact sameIn_runPlan_of_sameOperands Config.cfg operands only (reg := .ka) (List.mem_singleton_self _)

end Sys2Proof.Machine
end

section
/-! PROOFS. The host program `ec_mask_scalar` (spec 30_encoding.md R93, R94; 40_scalar_masking.md R101), turn
by turn. -/

namespace Sys2Proof.Machine

/-! ### The host's turns -/

theorem hostRead_setHost (cfg : Cfg) (wa : WordAddr) (s : State) (ts : List Turn) (ws : List Limb) :
    hostRead cfg wa { s with turns := ts, reads := ws } = hostRead cfg wa s := by
  have operand (r : OperandReg) : ({ s with turns := ts, reads := ws } : State).operandReg r =
      s.operandReg r := by cases r <;> rfl
  unfold hostRead
  cases regionOf wa with
  | operand r j => simp only [operand]
  | _ => rfl

/-- The host's reads, one after another, receive words of one state (20_memory.md R67). -/
theorem run_reads (was : List WordAddr) (rest : List Turn) (s : State) (ht : s.turns = was.map Turn.read ++ rest) :
    Host.Core.run Sys2Proof.core was.length s =
      .next { s with turns := rest, reads := s.reads ++ was.map (hostRead Config.cfg · s) } := by
  induction was generalizing s with
  | nil =>
    obtain rfl : s.turns = rest := ht
    simp [run_zero]
  | cons wa was ih =>
    have step := readsChangeNothing s wa (was.map Turn.read ++ rest) ht
    rw [List.length_cons, run_succ_of_step step]
    refine (ih { s with turns := _, reads := _ } rfl).trans ?_
    simp [hostRead_setHost]

/-- A core that is not busy lets core steps pass (log 2). -/
theorem run_cores_idle (n : Nat) (rest : List Turn) (s : State) (idle : s.busy = false)
    (ht : s.turns = List.replicate n .core ++ rest) :
    Host.Core.run Sys2Proof.core n s = .next { s with turns := rest } := by
  induction n generalizing s with
  | zero =>
    obtain rfl : s.turns = rest := ht
    rfl
  | succ n ih =>
    have step : step s = .next { s with turns := List.replicate n .core ++ rest } := by
      rw [step_of_cons ht]
      exact coreStep_idle _ idle
    rw [run_succ_of_step step]
    exact ih { s with turns := _ } idle rfl

theorem setLimb_all (k v : U256) :
    setLimb (setLimb (setLimb (setLimb k 0 (limb v 0)) 1 (limb v 1)) 2 (limb v 2)) 3 (limb v 3) = v := by
  conv_lhs => rw [setLimb]
  simp only [limb_setLimb, Nat.reduceLT, Nat.reduceEqDiff, OfNat.ofNat_ne_zero, OfNat.ofNat_ne_one,
    zero_ne_one, one_ne_zero, if_true, if_false]
  exact ofLimbs_limb v

/-- One write of `WR256 KA` while not busy. -/
theorem step_write_ka {s : State} {j : Nat} {v : Limb} {rest : List Turn} (hj : j < 4)
    (idle : s.busy = false)
    (ht : s.turns = .write (operandBase .ka + BitVec.ofNat 12 j) v :: rest) :
    step s = .next { s with ka := setLimb s.ka j v, turns := rest } := by
  rw [step_of_cons ht]
  exact congrArg Host.Outcome.next (hostWrite_operand_of_idle (s := { s with turns := rest }) v
    (regionOf_operandWord .ka hj) idle)

/-- `WR256 KA, v` while not busy (R93). -/
theorem run_wr256_ka {s : State} {v : U256} {rest : List Turn} (idle : s.busy = false)
    (ht : s.turns = wr256 .ka v ++ rest) :
    Host.Core.run Sys2Proof.core 4 s = .next { s with ka := v, turns := rest } := by
  rw [run_succ_of_step (step_write_ka (by decide : 0 < 4) idle ht),
    run_succ_of_step (step_write_ka (by decide : 1 < 4) (by exact idle) rfl),
    run_succ_of_step (step_write_ka (by decide : 2 < 4) (by exact idle) rfl),
    run_succ_of_step (step_write_ka (by decide : 3 < 4) (by exact idle) rfl), run_zero, setLimb_all]
  rfl

theorem limb_maskScalar (k : U256) {j : Nat} (hj : j < 4) :
    limb (maskScalar k) j = if j = 3 then limb k 3 &&& 0x07FFFFFFFFFFFFFF#64 else limb k j := by
  rw [maskScalar, limb_setLimb _ _ _ _ hj]
  simp only [eq_comm]

theorem statusWord_finished {s : State} (idle : s.busy = false) (done : s.done = true)
    (hphase : s.seq.phase = .done) (errOp : s.errOp = false) (errBusy : s.errBusy = false)
    (errAddr : s.errAddr = false) : statusWord s = 0x82#64 := by
  rw [statusWord, idle, done, hphase, errOp, errBusy, errAddr]
  rfl

/-- The words `ec_mask_scalar` reads: `STATUS`, and then the limbs of `KA` (R94). -/
def maskScalarReads : List WordAddr := [0x001#12, 0x008#12, 0x009#12, 0x00A#12, 0x00B#12]

/-- What the host reads there (20_memory.md R63). -/
theorem map_hostRead_maskScalar (cfg : Cfg) {s : State} {buf : U256} (hka : s.ka = maskScalar buf)
    (hstatus : statusWord s = 0x82#64) :
    maskScalarReads.map (hostRead cfg · s) =
      [0x82#64, limb buf 0, limb buf 1, limb buf 2, limb buf 3 &&& 0x07FFFFFFFFFFFFFF#64] := by
  have word {j : Nat} (hj : j < 4) : hostRead cfg (operandBase .ka + BitVec.ofNat 12 j) s =
      if j = 3 then limb buf 3 &&& 0x07FFFFFFFFFFFFFF#64 else limb buf j := by
    rw [hostRead_operandWord cfg s .ka hj, State.operandReg, hka, limb_maskScalar _ hj]
  rw [maskScalarReads, List.map_cons, hostRead_status, hstatus]
  exact congrArg _ (congrArg₂ _ (word (by decide : 0 < 4)) (congrArg₂ _ (word (by decide : 1 < 4))
    (congrArg₂ _ (word (by decide : 2 < 4)) (congrArg₂ _ (word (by decide : 3 < 4)) rfl))))

/-- The program's turns after its core steps of grace, of which the first runs the command. -/
theorem hostMaskScalar_eq (buf : U256) (n : Nat) :
    hostMaskScalar buf [n + 1] =
      wr256 .ka buf ++ .write 0x000#12 (encode .maskScalar) :: .core ::
        (List.replicate n .core ++ (maskScalarReads.map .read ++ [])) := by
  simp [hostMaskScalar, poll, rd256, maskScalarReads, List.replicate_succ, List.range_succ]

/-- Acceptance and one core step are the whole command (40_scalar_masking.md R100). -/
theorem run_maskScalar {s : State} {rest : List Turn} (idle : s.busy = false)
    (ht : s.turns = .write 0x000#12 (encode .maskScalar) :: .core :: rest) :
    Host.Core.run Sys2Proof.core 2 s = .next
      { s with
        ka := maskScalar s.ka
        opl := 1, mcl := false, busy := false, done := true
        seq := { phase := .done, ii := 0, sub := 0 }
        trace := [], turns := rest } := by
  have command : step s = .next (accept .maskScalar { s with turns := .core :: rest }) := by
    rw [step_of_cons ht]
    exact congrArg Host.Outcome.next
      (hostWrite_cmd_of_legal (s := { s with turns := .core :: rest }) idle rfl)
  have mask : step (accept .maskScalar { s with turns := .core :: rest }) =
      exec .maskScalar { s with turns := rest } := by
    rw [step_of_cons (accept_turns ..)]
    exact (maskScalarResult { s with turns := rest } idle).2.2
  rw [exec_maskScalar (s := { s with turns := rest }) idle] at mask
  rw [run_succ_of_step command, run_succ_of_step mask, run_zero]

/-- Settles O60: the writes fill `KA`, the first core step masks it and completes, and the reads follow. -/
theorem maskScalarHostProgram : Obligations.MaskScalarHostProgram := by
  intro s buf n idle errOp errBusy errAddr hn ht
  obtain ⟨n, rfl⟩ := Nat.exists_eq_add_of_le' hn
  rw [hostMaskScalar_eq] at ht
  rw [show n + 1 + 10 = 4 + (2 + (n + maskScalarReads.length)) by simp [maskScalarReads]; omega,
    run_add (run_wr256_ka idle ht), run_add (run_maskScalar (by exact idle) rfl),
    run_add (run_cores_idle n _ _ rfl rfl)]
  refine ⟨_, run_reads maskScalarReads [] _ rfl, rfl, ?_⟩
  exact congrArg (s.reads ++ ·) (map_hostRead_maskScalar Config.cfg rfl
    (statusWord_finished rfl rfl rfl errOp errBusy errAddr))

end Sys2Proof.Machine
end

section
/-! PROOFS. The trace of a command (spec 20_memory.md R74; 70_reset_and_hazards.md R271, R272): the events of
each micro-operation, which only the reads of a variable-time selector let depend on data. -/

namespace Sys2Proof.Machine

/-! ### The events of a micro-operation -/

/-- The events of a micro-operation, without the reads of a variable-time selection (R141, R272). -/
def MicroOp.events : MicroOp → List Event
  | .mask => []
  | .decomp k _ => [.op .glsDecompose [.scalar k]]
  | .prep a pair =>
    [.op .ecExpand [.operand a], .op .glsMorph [.operand a], .op .ecExpand [.morphed],
      .op .ecCondNeg [.point pair.bases.1], .op .ecCondNeg [.point pair.bases.2]]
  | .recode2 _ => []
  | .recode4 _ => []
  | .combrec72 => [.op .negModQ [.scalar .ka]]
  | .combrec81 => [.op .negModQ [.scalar .ka]]
  | .gentab2 => gentab2Events
  | .gentab4 => gentab4Events
  | .sel2 _ ct _ => (if ct then (List.range 8).map (Event.rd .tab) else []) ++ [.op .ecCondNeg [.entry]]
  | .sel4 _ _ => (List.range 8).map (Event.rd .tab) ++ [.op .ecCondNeg [.entry]]
  | .selcomb72 _ => scanRomEvents .gt0 ++ expandCalls ++ (scanRomEvents .gt1 ++ expandCalls)
  | .selcomb81 _ => expandCalls
  | .dbl => [.op .ecDbl [.point .x]]
  | .add u v => [.op .ecAdd [.point u, .point v]]
  | .correctGlv => [.op .ecCondAdd [.point .x, .point .b0]]
  | .correctFix => [.rd .gfix 0, .op .ecCondAdd [.point .x, .point .ts]]
  | .correctSign => [.op .ecCondNeg [.point .x]]
  | .affine => [.op .ecAffine [.point .x]]

/-- The reads of a variable-time selection (R141). -/
def MicroOp.vtReads (cfg : Cfg) (s : State) : MicroOp → List Event
  | .sel2 index false _ => (vtSlots cfg .tab (sel2Index s.s0 s.s1 index)).map (Event.rd .tab)
  | .selcomb81 ep => (vtSlots cfg .sgt (combIndex81 s.rb ep)).map (Event.rd .sgt)
  | _ => []

/-- Whether a micro-operation's reads are fixed: all but the two variable-time selectors (R140). -/
def MicroOp.constantTime : MicroOp → Bool
  | .sel2 _ ct _ => ct
  | .selcomb81 _ => false
  | _ => true

/-- What a micro-operation appends to the trace: a variable-time selection's reads come first. -/
theorem runMicro_trace (cfg : Cfg) (m : MicroOp) (s : State) :
    (runMicro cfg m s).trace = s.trace ++ (m.vtReads cfg s ++ m.events) := by
  cases m with
  | mask => exact (List.append_nil _).symm
  | recode2 len => exact (List.append_nil _).symm
  | recode4 len => exact (List.append_nil _).symm
  | decomp k pair => cases pair <;> rfl
  | prep a pair => simp [runMicro, prep_eq, MicroOp.events, MicroOp.vtReads]
  | gentab2 => rw [runMicro, gentab2_eq]; rfl
  | gentab4 => rw [runMicro, gentab4_eq]; rfl
  | sel2 index ct dest =>
    cases ct <;> simp [runMicro, sel2_eq, fetchTabEvents, MicroOp.events, MicroOp.vtReads]
  | sel4 index dest => simp [runMicro, sel4_eq, MicroOp.events, MicroOp.vtReads]
  | selcomb72 ep => simp [runMicro, selcomb72_eq, MicroOp.events, MicroOp.vtReads]
  | selcomb81 ep => simp [runMicro, selcomb81_eq, MicroOp.events, MicroOp.vtReads]
  | correctFix => simp [runMicro, correctFix, MicroOp.events, MicroOp.vtReads]
  | _ => rfl

theorem vtReads_of_constantTime (cfg : Cfg) {m : MicroOp} (s : State) (h : m.constantTime = true) :
    m.vtReads cfg s = [] := by
  cases m with
  | sel2 index ct dest =>
    obtain rfl : ct = true := h
    rfl
  | selcomb81 ep => cases h
  | _ => rfl

theorem runMicros_trace_of_constantTime (cfg : Cfg) {ms : List MicroOp} (s : State)
    (h : ∀ m ∈ ms, m.constantTime = true) :
    (runMicros cfg ms s).trace = s.trace ++ ms.flatMap MicroOp.events := by
  induction ms generalizing s with
  | nil => exact (List.append_nil _).symm
  | cons m ms ih =>
    obtain ⟨hm, hms⟩ := List.forall_mem_cons.mp h
    rw [runMicros_cons, ih _ hms, runMicro_trace, vtReads_of_constantTime cfg s hm, List.nil_append,
      List.append_assoc, List.flatMap_cons]

theorem runPlan_trace (cfg : Cfg) (i : Instr) (p : Plan) (s : State) :
    (runPlan cfg i p s).trace = (runMicros cfg p.program (accept i s)).trace := rfl

/-! ### The four constant-time commands -/

theorem planOf_constantTime {i : Instr} (hi : i ≠ .simulGen) :
    ∀ m ∈ (planOf i).program, m.constantTime = true := by
  have ladder (p : Plan) (l : Ladder) (hl : p.ladder = some l)
      (h : ∀ ii, ∀ m ∈ l.body ii, m.constantTime = true) :
      ∀ m ∈ (p.ladder.map Ladder.program).getD [], m.constantTime = true :=
    Plan.forall_mem_ladder fun l' hl' => by
      obtain rfl : l = l' := Option.some.inj (hl.symm.trans hl')
      exact h
  simp only [Plan.program, List.forall_mem_append]
  cases i with
  | simulGen => exact absurd rfl hi
  | maskScalar => simp [planOf, maskPlan, MicroOp.constantTime]
  | mul =>
    refine ⟨⟨⟨⟨⟨⟨?_, ?_⟩, ?_⟩, ladder _ _ rfl fun ii => ?_⟩, ?_⟩, ?_⟩, ?_⟩ <;>
      simp [planOf, mulPlan, window2Ops, cofactorOps, MicroOp.constantTime]
  | mulGen mc =>
    refine ⟨⟨⟨⟨⟨⟨?_, ?_⟩, ?_⟩, ladder _ _ rfl fun ii => ?_⟩, ?_⟩, ?_⟩, ?_⟩ <;> cases mc <;>
      simp [planOf, mulGenPlan, cofactorOps, MicroOp.constantTime]
  | simul =>
    refine ⟨⟨⟨⟨⟨⟨?_, ?_⟩, ?_⟩, ladder _ _ rfl fun ii => ?_⟩, ?_⟩, ?_⟩, ?_⟩ <;>
      simp [planOf, simulPlan, cofactorOps, MicroOp.constantTime]

/-- Core steps alone run a command to its end in as many steps as its list is long. -/
theorem completesAfter_coreSteps (i : Instr) {s : State} (idle : s.busy = false) :
    completesAfter i (coreSteps i) s (runPlan Config.cfg i (planOf i) { s with turns := [] }) := by
  refine ⟨?_, rfl, fun n hn => ?_⟩
  · rw [wholeCommandIsItsCoreSteps i s idle]
    exact exec_idle i (s := { s with turns := [] }) idle
  · obtain ⟨t, hrun, busy, -⟩ := busyUntilTheLastMicroOperation i s n idle hn
    exact ⟨t, hrun, busy⟩

/-- Settles O37: the trace is the list's own events, and the number of steps its length. -/
theorem traceInvariance : Obligations.TraceInvariance := by
  intro i hi
  have trace (s : State) : (runPlan Config.cfg i (planOf i) s).trace =
      (planOf i).program.flatMap MicroOp.events := by
    rw [runPlan_trace, runMicros_trace_of_constantTime _ _ (planOf_constantTime hi), accept_trace,
      List.nil_append]
  exact ⟨_, coreSteps i, fun s idle =>
    ⟨_, _, exec_idle i idle, trace s, completesAfter_coreSteps i idle, trace _⟩⟩

/-! ### Traces without the reads of the selectors (R272) -/

/-- A list of events that does not end in a read, so that what follows decides nothing about it. -/
def Closed (es : List Event) : Prop := ∀ m i, es.getLast? ≠ some (.rd m i)

theorem closed_append_of_ne {es fs : List Event} (h : Closed fs) (hne : fs ≠ []) : Closed (es ++ fs) := by
  intro m i
  rw [List.getLast?_append_of_ne_nil _ hne]
  exact h m i

theorem closed_append {es fs : List Event} (h : Closed es) (g : Closed fs) : Closed (es ++ fs) := by
  by_cases hne : fs = []
  · rwa [hne, List.append_nil]
  · exact closed_append_of_ne g hne

/-- What is kept of a closed list does not depend on what comes after it. -/
theorem foldr_keepEvent {es : List Event} (h : Closed es) (hne : es ≠ []) (acc : List Event × Bool) :
    es.foldr keepEvent acc =
      ((es.foldr keepEvent ([], false)).1 ++ acc.1, (es.foldr keepEvent ([], false)).2) := by
  induction es with
  | nil => exact absurd rfl hne
  | cons e es ih =>
    by_cases hes : es = []
    · subst hes
      cases e with
      | rd m i => exact absurd rfl (h m i)
      | wr i => rfl
      | op f args => rfl
    · have closed : Closed es := fun m i => by
        have := h m i
        rwa [List.getLast?_cons_of_ne_nil hes] at this
      rw [List.foldr_cons, List.foldr_cons, ih closed hes]
      cases e with
      | rd m i =>
        simp only [keepEvent]
        split <;> rfl
      | wr i => rfl
      | op f args => rfl

theorem withoutSelectorReads_append {es : List Event} (h : Closed es) (fs : List Event) :
    withoutSelectorReads (es ++ fs) = withoutSelectorReads es ++ withoutSelectorReads fs := by
  by_cases hne : es = []
  · rw [hne]
    rfl
  · rw [withoutSelectorReads, List.foldr_append, foldr_keepEvent h hne]
    rfl

/-- Reads directly before a call on the fetched entry are taken out. -/
theorem withoutSelectorReads_reads (m : TableName) (is : List Nat) (f : Ext) (es : List Event) :
    withoutSelectorReads (is.map (Event.rd m) ++ .op f [.entry] :: es) =
      withoutSelectorReads (.op f [.entry] :: es) := by
  have dropped : (is.map (Event.rd m) ++ .op f [.entry] :: es).foldr keepEvent ([], false) =
      (.op f [.entry] :: es).foldr keepEvent ([], false) := by
    induction is with
    | nil => rfl
    | cons i is ih =>
      rw [List.map_cons, List.cons_append, List.foldr_cons, ih]
      rfl
  rw [withoutSelectorReads, dropped]
  rfl

theorem closed_events (cfg : Cfg) (m : MicroOp) (s : State) : Closed (m.vtReads cfg s ++ m.events) := by
  cases m with
  | sel2 index ct dest => exact closed_append_of_ne (closed_append_of_ne nofun (by simp)) (by simp [MicroOp.events])
  | selcomb81 ep => exact closed_append_of_ne nofun (by simp [MicroOp.events, expandCalls])
  | sel4 index dest => exact closed_append_of_ne (closed_append_of_ne nofun (by simp)) (by simp [MicroOp.events])
  | selcomb72 ep =>
    exact closed_append_of_ne (closed_append_of_ne (closed_append_of_ne nofun (by simp [expandCalls]))
      (by simp [expandCalls])) (by simp [MicroOp.events, expandCalls])
  | _ => exact nofun

theorem withoutSelectorReads_events (cfg : Cfg) (m : MicroOp) (s : State) :
    withoutSelectorReads (m.vtReads cfg s ++ m.events) = withoutSelectorReads m.events := by
  cases m with
  | sel2 index ct dest =>
    cases ct with
    | true => rw [vtReads_of_constantTime cfg s rfl, List.nil_append]
    | false => exact withoutSelectorReads_reads _ _ _ _
  | selcomb81 ep => exact withoutSelectorReads_reads _ _ _ _
  | _ => rw [vtReads_of_constantTime cfg s rfl, List.nil_append]

/-- Without the reads of the selectors, every trace of a list is the same. -/
theorem withoutSelectorReads_runMicros (cfg : Cfg) (ms : List MicroOp) (s : State) (h : Closed s.trace) :
    withoutSelectorReads (runMicros cfg ms s).trace =
      withoutSelectorReads s.trace ++ ms.flatMap fun m => withoutSelectorReads m.events := by
  induction ms generalizing s with
  | nil => exact (List.append_nil _).symm
  | cons m ms ih =>
    have closed : Closed (runMicro cfg m s).trace := by
      rw [runMicro_trace]
      exact closed_append h (closed_events cfg m s)
    rw [runMicros_cons, ih _ closed, runMicro_trace, withoutSelectorReads_append h,
      withoutSelectorReads_events, List.append_assoc, List.flatMap_cons]

/-- Settles O38: the selectors' reads are all that its micro-operations leave to the data. -/
theorem simulGenOnlyReadsVary : Obligations.SimulGenOnlyReadsVary := by
  have trace (s : State) : withoutSelectorReads (runPlan Config.cfg .simulGen (planOf .simulGen) s).trace =
      (planOf .simulGen).program.flatMap fun m => withoutSelectorReads m.events := by
    have fresh : Closed (accept .simulGen s).trace := by
      rw [accept_trace]
      exact nofun
    rw [runPlan_trace, withoutSelectorReads_runMicros _ _ _ fresh, accept_trace,
      show withoutSelectorReads [] = [] from rfl, List.nil_append]
  obtain ⟨-, -, -, -, -, steps⟩ := coreStepCounts
  refine ⟨_, fun s idle => ⟨_, _, exec_idle .simulGen idle, trace s, ?_, trace _,
    exec_idle .simulGen (s := { s with turns := [] }) idle⟩⟩
  rw [← steps]
  exact completesAfter_coreSteps .simulGen idle

end Sys2Proof.Machine
end

section
/-! PROOFS. The GLV-SAC recoders (spec 41_glv_sac_recoders.md R110 to R116): digit readings as numbers,
the recoded sign word, and the companion in closed form. -/

namespace Sys2Proof.Machine

/-! ### Digit readings as numbers (00_scope.md R13) -/

section Readings

variable {w : Nat}

theorem bitInt_eq (s : BitVec w) (i : Nat) : bitInt s i = ((s.toNat / 2 ^ i % 2 : Nat) : Int) := by
  rw [bitInt, ← Nat.toNat_testBit, BitVec.testBit_toNat]
  cases s.getLsbD i <;> rfl

theorem dig_eq_two_mul_bitInt (s : BitVec w) (i : Nat) : dig s i = 2 * bitInt s i - 1 := by
  unfold dig bitInt
  cases s.getLsbD i <;> rfl

/-- A digit of a companion, as two plain bits. -/
theorem bitInt_mul_dig (s c : BitVec w) (i : Nat) :
    bitInt c i * dig s i = bitInt c i - 2 * bitInt (~~~s &&& c) i := by
  by_cases hi : i < w
  · rw [bitInt, bitInt, dig, BitVec.getLsbD_and, BitVec.getLsbD_not, decide_eq_true hi]
    cases s.getLsbD i <;> cases c.getLsbD i <;> rfl
  · simp [bitInt, BitVec.getLsbD_of_ge _ i (Nat.le_of_not_lt hi)]

theorem sum_bitInt (n : Nat) (s : BitVec w) :
    ∑ i ∈ Finset.range n, bitInt s i * 2 ^ i = ((s.toNat % 2 ^ n : Nat) : Int) := by
  induction n with
  | zero => simp [Nat.mod_one]
  | succ n ih =>
    rw [Finset.sum_range_succ, ih, bitInt_eq, Nat.mod_pow_succ]
    push_cast
    ring

theorem signValue_eq (n : Nat) (s : BitVec w) :
    signValue n s = 2 * ((s.toNat % 2 ^ n : Nat) : Int) - (2 ^ n - 1) := by
  have ones : ∑ i ∈ Finset.range n, (2 : Int) ^ i = 2 ^ n - 1 := by
    have := geom_sum_mul (2 : Int) n
    linarith
  rw [signValue, ← sum_bitInt, ← ones, Finset.mul_sum, ← Finset.sum_sub_distrib]
  refine Finset.sum_congr rfl fun i _ => ?_
  rw [dig_eq_two_mul_bitInt]
  ring

theorem companionValue_eq (n : Nat) (s c : BitVec w) :
    companionValue n s c =
      ((c.toNat % 2 ^ n : Nat) : Int) - 2 * (((~~~s &&& c).toNat % 2 ^ n : Nat) : Int) := by
  rw [companionValue, ← sum_bitInt, ← sum_bitInt, Finset.mul_sum, ← Finset.sum_sub_distrib]
  refine Finset.sum_congr rfl fun i _ => ?_
  rw [bitInt_mul_dig]
  ring

/-- No bit at or above `n`, as a bound. -/
theorem ushiftRight_eq_zero_of_lt {c : BitVec w} {n : Nat} (h : c.toNat < 2 ^ n) : c >>> n = 0 := by
  refine BitVec.eq_of_toNat_eq ?_
  rw [BitVec.toNat_ushiftRight, Nat.shiftRight_eq_div_pow, Nat.div_eq_of_lt h]
  rfl

end Readings

/-! ### Exclusive or as arithmetic -/

theorem xor_add_two_mul_and (x y : Nat) : (x ^^^ y) + 2 * (x &&& y) = x + y := by
  induction x using Nat.strong_induction_on generalizing y with
  | _ x ih =>
    rcases Nat.eq_zero_or_pos x with rfl | pos
    · simp
    · have high := ih (x / 2) (by omega) (y / 2)
      rw [← Nat.xor_div_two, ← Nat.and_div_two] at high
      have low := @Nat.xor_mod_two_eq x y
      have carry := @Nat.and_mod_two_eq_one x y
      omega

/-- Exclusive or acts on the bits below `k` and on the others apart. -/
theorem two_pow_mul_add_xor (k p q : Nat) {l m : Nat} (hl : l < 2 ^ k) (hm : m < 2 ^ k) :
    (2 ^ k * p + l) ^^^ (2 ^ k * q + m) = 2 ^ k * (p ^^^ q) + (l ^^^ m) := by
  refine Nat.eq_of_testBit_eq fun i => ?_
  rw [Nat.testBit_xor, Nat.testBit_two_pow_mul_add _ hl, Nat.testBit_two_pow_mul_add _ hm,
    Nat.testBit_two_pow_mul_add _ (Nat.xor_lt_two_pow hl hm), Nat.testBit_xor, Nat.testBit_xor]
  split <;> rfl

/-- One more bit of the mask: adding and flipping bit `j` instead carries what bit `j` was. -/
theorem add_xor_two_pow (y : Nat) {M j : Nat} (hM : M < 2 ^ j) :
    (y + 2 ^ j) ^^^ (M + 2 ^ j) = (y ^^^ M) + y / 2 ^ j % 2 * 2 ^ (j + 1) := by
  have hl : y % 2 ^ j < 2 ^ j := Nat.mod_lt _ (Nat.two_pow_pos j)
  have split_y : y = 2 ^ j * (y / 2 ^ j) + y % 2 ^ j := (Nat.div_add_mod _ _).symm
  have flip : (y / 2 ^ j + 1) ^^^ 1 = y / 2 ^ j + y / 2 ^ j % 2 * 2 := by
    have := xor_add_two_mul_and (y / 2 ^ j + 1) 1
    rw [Nat.and_one_is_mod] at this
    omega
  calc (y + 2 ^ j) ^^^ (M + 2 ^ j)
      = (2 ^ j * (y / 2 ^ j + 1) + y % 2 ^ j) ^^^ (2 ^ j * 1 + M) := by
        congr 1
        · conv_lhs => rw [split_y]
          ring
        · ring
    _ = 2 ^ j * (y / 2 ^ j + y / 2 ^ j % 2 * 2) + (y % 2 ^ j ^^^ M) := by
        rw [two_pow_mul_add_xor j _ _ hl hM, flip]
    _ = (2 ^ j * (y / 2 ^ j ^^^ 0) + (y % 2 ^ j ^^^ M)) + y / 2 ^ j % 2 * 2 ^ (j + 1) := by
        rw [Nat.xor_zero]
        ring
    _ = (y ^^^ M) + y / 2 ^ j % 2 * 2 ^ (j + 1) := by
        rw [← two_pow_mul_add_xor j _ _ hl hM, ← split_y, Nat.mul_zero, Nat.zero_add]

/-! ### The sign word (R110, R112, R116) -/

theorem recodeLsb_eq_true_iff (a : U128) : recodeLsb a = true ↔ a.toNat % 2 = 0 := by
  rw [recodeLsb, ← BitVec.testBit_toNat, Nat.testBit_zero]
  grind

theorem oddPart_toNat {a : U128} (pos : 1 ≤ a.toNat) :
    (a - (BitVec.ofBool (recodeLsb a)).setWidth 128).toNat = a.toNat - (recodeLsb a).toNat := by
  have bit : ((BitVec.ofBool (recodeLsb a)).setWidth 128).toNat = (recodeLsb a).toNat := by
    cases recodeLsb a <;> rfl
  have := Bool.toNat_le (recodeLsb a)
  rw [BitVec.toNat_sub, bit]
  omega

theorem getLsbD_recodeSign (len : Nat) (hlen : len = 127 ∨ len = 128) (a : U128) (i : Nat) :
    (recodeSign len a).getLsbD i =
      ((a - (BitVec.ofBool (recodeLsb a)).setWidth 128).getLsbD (i + 1) || decide (i = len - 1)) := by
  rw [recodeSign, BitVec.getLsbD_or, BitVec.getLsbD_ushiftRight, Nat.add_comm 1 i,
    BitVec.getLsbD_shiftLeft, BitVec.getLsbD_one]
  congr 1
  grind

theorem recodeSign_top (len : Nat) (hlen : len = 127 ∨ len = 128) (a : U128) :
    (recodeSign len a).getLsbD (len - 1) = true := by
  rw [getLsbD_recodeSign len hlen, decide_eq_true rfl, Bool.or_true]

theorem recodeSign_lt (len : Nat) (hlen : len = 127 ∨ len = 128) (a : U128) :
    (recodeSign len a).toNat < 2 ^ len := by
  refine Nat.lt_pow_two_of_testBit _ fun i hi => ?_
  rw [BitVec.testBit_toNat, getLsbD_recodeSign len hlen, BitVec.getLsbD_of_ge _ _ (by omega),
    decide_eq_false (by omega), Bool.or_false]

/-- The sign word of an odd part below `2^len`: half of it, with the top digit set. -/
theorem recodeSign_toNat (len : Nat) (hlen : len = 127 ∨ len = 128) {a : U128} (pos : 1 ≤ a.toNat)
    (bound : a.toNat ≤ 2 ^ len) :
    (recodeSign len a).toNat = 2 ^ (len - 1) + (a.toNat - (recodeLsb a).toNat) / 2 := by
  have even := recodeLsb_eq_true_iff a
  have half : (a.toNat - (recodeLsb a).toNat) / 2 < 2 ^ (len - 1) := by
    obtain rfl | rfl := hlen <;> cases h : recodeLsb a <;> simp only [Bool.toNat_false, Bool.toNat_true] <;>
      grind
  have top : (1#128 <<< (len - 1)).toNat = 2 ^ (len - 1) * 1 := by
    obtain rfl | rfl := hlen <;> rfl
  rw [recodeSign, BitVec.toNat_or, top, BitVec.toNat_ushiftRight, oddPart_toNat pos,
    Nat.shiftRight_eq_div_pow, pow_one, Nat.or_comm, ← Nat.two_pow_add_eq_or_of_lt half, mul_one]

/-- R113 for the sign word: its value is the subscalar less `LSB`. -/
theorem signValue_recodeSign (len : Nat) (hlen : len = 127 ∨ len = 128) {a : U128} (pos : 1 ≤ a.toNat)
    (bound : a.toNat ≤ 2 ^ len) :
    signValue len (recodeSign len a) = (a.toNat : Int) - (if recodeLsb a then 1 else 0) := by
  have even := recodeLsb_eq_true_iff a
  rw [signValue_eq, Nat.mod_eq_of_lt (recodeSign_lt len hlen a), recodeSign_toNat len hlen pos bound]
  obtain rfl | rfl := hlen <;> cases h : recodeLsb a <;> simp only [Bool.toNat_false, Bool.toNat_true,
    Bool.false_eq_true, if_true, if_false] <;> push_cast <;> grind

/-! ### The companion (R110, R115) -/

/-- The digit −1 positions of a sign word below `j`, as a number. -/
def negBelow (a : U128) (j : Nat) : Nat := (~~~a).toNat % 2 ^ j

theorem negBelow_lt (a : U128) (j : Nat) : negBelow a j < 2 ^ j := Nat.mod_lt _ (Nat.two_pow_pos j)

theorem negBelow_succ (a : U128) {j : Nat} (hj : j < 128) :
    negBelow a (j + 1) = negBelow a j + (if a.getLsbD j then 0 else 2 ^ j) := by
  rw [negBelow, Nat.mod_pow_succ, ← Nat.toNat_testBit, BitVec.testBit_toNat, BitVec.getLsbD_not,
    decide_eq_true hj, Bool.true_and, negBelow]
  cases a.getLsbD j <;> simp

theorem companionStep_toNat (a c : U128) (j : Nat) :
    (companionStep a c j).toNat =
      (c.toNat + (if a.getLsbD j then 0 else c.toNat / 2 ^ j % 2 * 2 ^ (j + 1))) % 2 ^ 128 := by
  rw [companionStep, BitVec.toNat_add, BitVec.toNat_shiftLeft, ← Nat.toNat_testBit,
    BitVec.testBit_toNat, Nat.shiftLeft_eq]
  cases a.getLsbD j <;> cases c.getLsbD j <;> simp

/-- R115 after `j` positions: the companion is `(b + N) xor N`, with `N` the digit −1 positions so far,
as long as the sum does not overflow. -/
theorem companion_prefix (a b : U128) {j : Nat} (hj : j ≤ 127)
    (bound : b.toNat + negBelow a j < 2 ^ 128) :
    ((List.range j).foldl (companionStep a) b).toNat = (b.toNat + negBelow a j) ^^^ negBelow a j := by
  induction j with
  | zero => simp [negBelow, Nat.mod_one]
  | succ j ih =>
    have step := negBelow_succ a (show j < 128 by omega)
    have ih := ih (by omega) (lt_of_le_of_lt (by rw [step]; omega) bound)
    have small := negBelow_lt a j
    have fits : (b.toNat + negBelow a (j + 1)) ^^^ negBelow a (j + 1) < 2 ^ 128 :=
      Nat.xor_lt_two_pow bound (by omega)
    rw [List.range_succ, List.foldl_append, List.foldl_cons, List.foldl_nil,
      companionStep_toNat, ih]
    cases digit : a.getLsbD j with
    | true =>
      rw [digit, if_pos rfl, add_zero] at step
      rw [step] at fits ⊢
      rw [if_pos rfl, add_zero, Nat.mod_eq_of_lt fits]
    | false =>
      have bit : ((b.toNat + negBelow a j) ^^^ negBelow a j) / 2 ^ j % 2 =
          (b.toNat + negBelow a j) / 2 ^ j % 2 := by
        rw [Nat.xor_div_two_pow, Nat.div_eq_of_lt small, Nat.xor_zero]
      rw [digit, if_neg Bool.false_ne_true] at step
      rw [step, ← add_assoc, add_xor_two_pow _ small] at fits ⊢
      rw [if_neg Bool.false_ne_true, bit, Nat.mod_eq_of_lt fits]

/-- The positions R115 names, as the number the loop has gathered at its end. -/
theorem negatives_toNat (len : Nat) (hlen : len = 127 ∨ len = 128) (a : U128) :
    (~~~a &&& BitVec.ofNat 128 (2 ^ (len - 1) - 1)).toNat = negBelow a (len - 1) := by
  have ones : (BitVec.ofNat 128 (2 ^ (len - 1) - 1)).toNat = 2 ^ (len - 1) - 1 := by
    obtain rfl | rfl := hlen <;> rfl
  rw [BitVec.toNat_and, ones, Nat.and_two_pow_sub_one_eq_mod, negBelow]

/-- R113 and R115 for a companion: its closed form, its bound and its value. -/
theorem recodeCompanion_spec (len : Nat) (hlen : len = 127 ∨ len = 128) {a b N : U128}
    (top : a.getLsbD (len - 1) = true) (hN : N = ~~~a &&& BitVec.ofNat 128 (2 ^ (len - 1) - 1))
    (bound : b.toNat + N.toNat ≤ 2 ^ len - 1) :
    companionValue len a (recodeCompanion len a b) = b.toNat ∧ recodeCompanion len a b >>> len = 0 ∧
      recodeCompanion len a b = (b + N) ^^^ N := by
  have hN' : N.toNat = negBelow a (len - 1) := hN ▸ negatives_toNat len hlen a
  have range : len - 1 + 1 = len ∧ len - 1 < 128 ∧ 2 ^ len ≤ 2 ^ 128 := by
    obtain rfl | rfl := hlen <;> decide
  obtain ⟨pred, short, width⟩ := range
  have some : 0 < 2 ^ len := Nat.two_pow_pos len
  have whole : negBelow a len = N.toNat := by
    rw [← pred, negBelow_succ a short, if_pos top, hN', add_zero]
  have small : N.toNat < 2 ^ len := whole ▸ negBelow_lt a len
  have value : (recodeCompanion len a b).toNat = (b.toNat + N.toNat) ^^^ N.toNat := by
    rw [recodeCompanion, companion_prefix a b (by omega) (by omega), hN']
  have below : (recodeCompanion len a b).toNat < 2 ^ len :=
    value ▸ Nat.xor_lt_two_pow (by omega) small
  have negative : (~~~a &&& recodeCompanion len a b).toNat % 2 ^ len =
      N.toNat &&& (recodeCompanion len a b).toNat := by
    rw [BitVec.toNat_and, Nat.and_mod_two_pow, Nat.mod_eq_of_lt below, ← whole, negBelow]
  have sum := xor_add_two_mul_and ((b.toNat + N.toNat) ^^^ N.toNat) N.toNat
  rw [Nat.xor_xor_cancel_right, ← value, Nat.and_comm] at sum
  refine ⟨?_, ushiftRight_eq_zero_of_lt below, BitVec.eq_of_toNat_eq ?_⟩
  · rw [companionValue_eq, negative, Nat.mod_eq_of_lt below]
    omega
  · rw [value, BitVec.toNat_xor, BitVec.toNat_add, Nat.mod_eq_of_lt (by omega)]

/-! ### The obligations -/

theorem recoder_s0 {len : Nat} {s t : State} (h : t = recode2 len s ∨ t = recode4 len s) :
    t.s0 = recodeSign len s.s0 ∧ t.lsb = recodeLsb s.s0 ∧
      t.s1 = recodeCompanion len (recodeSign len s.s0) s.s1 := by
  obtain rfl | rfl := h <;> exact ⟨rfl, rfl, rfl⟩

/-- Settles O40: the sign word by `signValue_recodeSign`, each companion by `recodeCompanion_spec`. -/
theorem recodeValueLaw : Obligations.RecodeValueLaw := by
  intro len s hlen pos bound t ht
  obtain ⟨hs0, hlsb, hs1⟩ := recoder_s0 ht
  have value := signValue_recodeSign len hlen pos bound
  have top := recodeSign_top len hlen s.s0
  rw [hs0, hlsb]
  refine ⟨value, ushiftRight_eq_zero_of_lt (recodeSign_lt len hlen s.s0), fun N hN => ⟨?_, ?_, ?_⟩⟩
  · intro small
    obtain ⟨sum, short, closed⟩ := recodeCompanion_spec len hlen top hN small
    rw [recodingRoundTrips, hs0, hlsb, hs1]
    exact ⟨⟨value, sum⟩, short, closed⟩
  · rintro rfl small
    exact recodeCompanion_spec len hlen top hN small
  · rintro rfl small
    exact recodeCompanion_spec len hlen top hN small

theorem sel2Neg_eq (a : U128) (i : Nat) : sel2Neg a i = !a.getLsbD (i + 1) := by
  rw [sel2Neg, ← BitVec.shiftRight_add, BitVec.and_one_eq_setWidth_ofBool_getLsbD,
    BitVec.getLsbD_ushiftRight, Nat.add_zero]
  cases a.getLsbD (i + 1) <;> rfl

theorem sel4Neg_eq (a : U128) (i : Nat) : sel4Neg a i = !a.getLsbD i := by
  rw [sel4Neg, BitVec.and_one_eq_setWidth_ofBool_getLsbD, BitVec.getLsbD_ushiftRight, Nat.add_zero]
  cases a.getLsbD i <;> rfl

/-- Settles O41: bit `len − 1` of the sign word is set, and it is the sign bit both selectors read. -/
theorem recodedTopDigit : Obligations.RecodedTopDigit := by
  refine ⟨fun len s t hlen ht => ?_, fun s => ⟨?_, ?_⟩⟩
  · obtain ⟨hs0, hlsb, -⟩ := recoder_s0 ht
    rw [hs0, hlsb]
    exact ⟨recodeLsb_eq_true_iff s.s0, recodeSign_top len hlen s.s0,
      ushiftRight_eq_zero_of_lt (recodeSign_lt len hlen s.s0)⟩
  · rw [sel2Neg_eq, (recoder_s0 (.inl rfl)).1, recodeSign_top 128 (.inr rfl)]
    rfl
  · rw [sel4Neg_eq, (recoder_s0 (.inr rfl)).1, recodeSign_top 127 (.inl rfl)]
    rfl

/-- Settles O42, by evaluation. -/
theorem recodedSignWordCorners : Obligations.RecodedSignWordCorners := by
  unfold Obligations.RecodedSignWordCorners
  decide

end Sys2Proof.Machine
end

section
/-! PROOFS. The comb recoders (spec 44_comb_recoders.md R150 to R155): what each iteration keeps, from the
sign window to the last bit. -/

namespace Sys2Proof.Machine

/-! ### The sign window (R151 step 2) -/

/-- The mask and the set bit of the sign window, as bits. -/
theorem signWindowMask_getLsbD {d : Nat} (hd : 1 ≤ d ∧ d ≤ 64) (i : Nat) :
    (1#64 <<< (d - 1) - 1#64).getLsbD i = decide (i < d - 1) := by
  have ones : 1#64 <<< (d - 1) - 1#64 = BitVec.ofNat 64 (2 ^ (d - 1) - 1) := by
    obtain ⟨pos, short⟩ := hd
    interval_cases d <;> rfl
  rw [ones, BitVec.getLsbD_ofNat, Nat.testBit_two_pow_sub_one]
  grind

/-- Below bit `d − 1` the window is the scalar shifted down, bit `d − 1` is set, the rest is kept. -/
theorem combSignWindow_getLsbD {d : Nat} (hd : 1 ≤ d ∧ d ≤ 64) (b : U256) (i : Nat) :
    (combSignWindow d b).getLsbD i =
      if i < d - 1 then b.getLsbD (i + 1) else if i = d - 1 then true else b.getLsbD i := by
  have top : (1#64 <<< (d - 1)).getLsbD i = decide (i = d - 1) := by
    rw [BitVec.getLsbD_shiftLeft, BitVec.getLsbD_one]
    grind
  simp only [combSignWindow, setLimb, Nat.reduceEqDiff, if_true, if_false, ofLimbs_getLsbD, BitVec.getLsbD_and, BitVec.getLsbD_or, BitVec.getLsbD_not,
    limb_getLsbD, signWindowMask_getLsbD hd, BitVec.getLsbD_ushiftRight, top]
  by_cases low : i < 64
  · rw [if_pos low, Nat.mul_zero, Nat.zero_add, Nat.zero_add, Nat.add_comm 1 i]
    grind
  · grind

theorem combSignWindow_low {d : Nat} (hd : 1 ≤ d ∧ d ≤ 64) (b : U256) :
    (combSignWindow d b).toNat % 2 ^ d = 2 ^ (d - 1) + b.toNat % 2 ^ d / 2 := by
  have pred : d - 1 + 1 = d := by omega
  have half : b.toNat % 2 ^ d / 2 < 2 ^ (d - 1) := by
    have : b.toNat % 2 ^ d < 2 ^ d := Nat.mod_lt _ (Nat.two_pow_pos d)
    have double : 2 ^ d = 2 * 2 ^ (d - 1) := by rw [← pow_succ', pred]
    omega
  refine Nat.eq_of_testBit_eq fun i => ?_
  have one : Nat.testBit 1 (i - (d - 1)) = decide (i - (d - 1) = 0) := by
    rw [Bool.eq_iff_iff, Nat.testBit_one_eq_true_iff_self_eq_zero, decide_eq_true_iff]
  rw [← mul_one (2 ^ (d - 1)), Nat.testBit_two_pow_mul_add _ half, Nat.testBit_mod_two_pow,
    BitVec.testBit_toNat, combSignWindow_getLsbD hd, Nat.testBit_div_two, Nat.testBit_mod_two_pow,
    BitVec.testBit_toNat, one]
  grind

theorem combSignWindow_high {d : Nat} (hd : 1 ≤ d ∧ d ≤ 64) (b : U256) :
    (combSignWindow d b).toNat / 2 ^ d = b.toNat / 2 ^ d := by
  refine Nat.eq_of_testBit_eq fun i => ?_
  rw [Nat.testBit_div_two_pow, Nat.testBit_div_two_pow, BitVec.testBit_toNat,
    combSignWindow_getLsbD hd, if_neg (by omega), if_neg (by omega), BitVec.testBit_toNat]

/-! ### One iteration of the loop (R151 step 3) -/

/-- One iteration carries the bit at `i` into the bits above it when the sign of its column is 0. -/
theorem combCarryStep_toNat (d : Nat) (c : U256) (i : Nat) :
    (combCarryStep d c i).toNat =
      (c.toNat + if c.getLsbD (i % d) then 0 else c.toNat / 2 ^ i % 2 * 2 ^ (i + 1)) % 2 ^ 256 := by
  have bit : ((c >>> (i % d)) ^^^ 1#256) &&& (c >>> i) &&& 1#256 =
      (BitVec.ofBool (!c.getLsbD (i % d) && c.getLsbD i)).setWidth 256 := by
    rw [BitVec.and_one_eq_setWidth_ofBool_getLsbD, BitVec.getLsbD_and, BitVec.getLsbD_xor,
      BitVec.getLsbD_ushiftRight, BitVec.getLsbD_ushiftRight, Nat.add_zero, Nat.add_zero]
    cases c.getLsbD (i % d) <;> rfl
  rw [combCarryStep, bit, BitVec.toNat_add, BitVec.toNat_shiftLeft, ← Nat.toNat_testBit,
    BitVec.testBit_toNat, Nat.shiftLeft_eq]
  cases c.getLsbD (i % d) <;> cases c.getLsbD i <;> simp

/-- What one iteration adds, when it does not overflow: `c + bit·2^(i+1)`, with `bit` the carry. -/
def carryBit (d : Nat) (c : U256) (i : Nat) : Nat :=
  if c.getLsbD (i % d) then 0 else c.toNat / 2 ^ i % 2

theorem combCarryStep_eq_add (d : Nat) (c : U256) (i : Nat)
    (fits : c.toNat + carryBit d c i * 2 ^ (i + 1) < 2 ^ 256) :
    (combCarryStep d c i).toNat = c.toNat + carryBit d c i * 2 ^ (i + 1) := by
  rw [combCarryStep_toNat, ← Nat.mod_eq_of_lt fits, carryBit]
  split
  · rw [Nat.zero_mul]
  · rfl

/-! ### The reading of a buffer, digit by digit (R154) -/

theorem combValue_self (d : Nat) (c : U256) :
    combValue d d c = signValue d c + ((c.toNat / 2 ^ d : Nat) : Int) * 2 ^ d := by
  rw [combValue, Finset.Ico_self, Finset.sum_empty, add_zero, BitVec.toNat_ushiftRight,
    Nat.shiftRight_eq_div_pow]
  rfl

/-- The reading one bit further: bit `i` gets its sign. -/
theorem combValue_succ {d i : Nat} (hi : d ≤ i) (c : U256) :
    combValue d (i + 1) c = combValue d i c + bitInt c i * (dig c (i % d) - 1) * 2 ^ i := by
  rw [combValue, combValue, Finset.sum_Ico_succ_top hi, bitInt_eq, BitVec.toNat_ushiftRight,
    BitVec.toNat_ushiftRight, Nat.shiftRight_eq_div_pow, Nat.shiftRight_eq_div_pow, pow_succ,
    ← Nat.div_div_eq_div_mul]
  have parts : ((c.toNat / 2 ^ i : Nat) : Int) =
      2 * ((c.toNat / 2 ^ i / 2 : Nat) : Int) + ((c.toNat / 2 ^ i % 2 : Nat) : Int) := by omega
  rw [parts]
  ring

/-- Two words with the same bits below `i` have the same digits there. -/
theorem getLsbD_of_mod_eq {c c' : U256} {i j : Nat} (h : c'.toNat % 2 ^ i = c.toNat % 2 ^ i) (hj : j < i) :
    c'.getLsbD j = c.getLsbD j := by
  have := congrArg (Nat.testBit · j) h
  simpa only [Nat.testBit_mod_two_pow, decide_eq_true hj, Bool.true_and, BitVec.testBit_toNat] using this

theorem mod_of_mod_eq {x y d i : Nat} (h : x % 2 ^ i = y % 2 ^ i) (hi : d ≤ i) :
    x % 2 ^ d = y % 2 ^ d := by
  rw [← Nat.mod_mod_of_dvd x (pow_dvd_pow 2 hi), h, Nat.mod_mod_of_dvd y (pow_dvd_pow 2 hi)]

/-- The reading sees the bits below `i` one by one and the others as a number. -/
theorem combValue_sub {d i : Nat} (pos : 1 ≤ d) (hi : d ≤ i) {c c' : U256}
    (h : c'.toNat % 2 ^ i = c.toNat % 2 ^ i) :
    combValue d i c' - combValue d i c =
      (((c'.toNat / 2 ^ i : Nat) : Int) - ((c.toNat / 2 ^ i : Nat) : Int)) * 2 ^ i := by
  have same : ∀ j, j < i → c'.getLsbD j = c.getLsbD j := fun j hj => getLsbD_of_mod_eq h hj
  have signs : ∑ j ∈ Finset.range d, dig c' j * 2 ^ j = ∑ j ∈ Finset.range d, dig c j * 2 ^ j :=
    Finset.sum_congr rfl fun j hj => by
      rw [dig, dig, same j (lt_of_lt_of_le (Finset.mem_range.1 hj) hi)]
  have columns : ∑ j ∈ Finset.Ico d i, bitInt c' j * dig c' (j % d) * 2 ^ j =
      ∑ j ∈ Finset.Ico d i, bitInt c j * dig c (j % d) * 2 ^ j :=
    Finset.sum_congr rfl fun j hj => by
      have below := (Finset.mem_Ico.1 hj).2
      rw [bitInt, bitInt, dig, dig, same j below, same (j % d) ((Nat.mod_lt _ pos).trans_le hi)]
  rw [combValue, combValue, signs, columns, BitVec.toNat_ushiftRight, BitVec.toNat_ushiftRight,
    Nat.shiftRight_eq_div_pow, Nat.shiftRight_eq_div_pow]
  ring

/-! ### The loop -/

/-- Before the iteration at bit `i`: the sign window is final, the reading up to `i` is still `k`, and what
is above is no more than a carry over the scalar's own bits. -/
structure CombStage (d k i : Nat) (c : U256) : Prop where
  window : c.toNat % 2 ^ d = 2 ^ (d - 1) + k % 2 ^ d / 2
  value : combValue d i c = k
  above : c.toNat / 2 ^ i ≤ 2 ^ (252 - i)

/-- The sign word reads the low `d` bits of an odd scalar. -/
theorem signValue_of_window {d k : Nat} {c : U256} (pos : 1 ≤ d) (odd : k % 2 = 1)
    (window : c.toNat % 2 ^ d = 2 ^ (d - 1) + k % 2 ^ d / 2) : signValue d c = (k : Int) % 2 ^ d := by
  have double : (2 : Nat) ^ d = 2 * 2 ^ (d - 1) := by rw [← pow_succ', Nat.sub_add_cancel pos]
  have low : k % 2 ^ d % 2 = 1 := by
    rw [Nat.mod_mod_of_dvd k (dvd_pow_self 2 (by omega)), odd]
  have cast : (2 : Int) ^ d = ((2 ^ d : Nat) : Int) := by push_cast; rfl
  rw [signValue_eq, window, cast, ← Int.natCast_mod]
  omega

/-- The top bit of the sign window is set. -/
theorem CombStage.sign_top {d k i : Nat} {c : U256} (h : CombStage d k i c) (pos : 1 ≤ d) :
    c.getLsbD (d - 1) = true := by
  have double : (2 : Nat) ^ d = 2 * 2 ^ (d - 1) := by rw [← pow_succ', Nat.sub_add_cancel pos]
  have half : k % 2 ^ d / 2 < 2 ^ (d - 1) := by
    have := Nat.mod_lt k (Nat.two_pow_pos d)
    omega
  have bit := congrArg (Nat.testBit · (d - 1)) h.window
  rw [← mul_one (2 ^ (d - 1))] at bit
  simp only [Nat.testBit_mod_two_pow, Nat.testBit_two_pow_mul_add _ half, BitVec.testBit_toNat] at bit
  rw [decide_eq_true (by omega), Bool.true_and] at bit
  rw [bit, if_neg (by omega), Nat.sub_self]
  rfl

theorem combStage_window {d k : Nat} (hd : 1 ≤ d ∧ d ≤ 64) {b : U256} (hb : b.toNat = k)
    (odd : k % 2 = 1) (small : k < 2 ^ 252) : CombStage d k d (combSignWindow d b) := by
  have window := combSignWindow_low hd b
  rw [hb] at window
  have high := combSignWindow_high hd b
  rw [hb] at high
  have above : k / 2 ^ d ≤ 2 ^ (252 - d) := by
    refine Nat.le_of_lt (Nat.div_lt_of_lt_mul ?_)
    rwa [← pow_add, Nat.add_sub_cancel' (by omega)]
  refine ⟨window, ?_, high ▸ above⟩
  rw [combValue_self, signValue_of_window hd.1 odd window, high]
  have := Nat.mod_add_div' k (2 ^ d)
  exact_mod_cast this

theorem carryBit_le (d : Nat) (c : U256) (i : Nat) : carryBit d c i ≤ c.toNat / 2 ^ i % 2 := by
  rw [carryBit]
  split
  · exact Nat.zero_le _
  · exact Nat.le_refl _

/-- What the iteration adds is what the sign of its bit takes away. -/
theorem carryBit_value (d : Nat) (c : U256) (i : Nat) :
    bitInt c i * (dig c (i % d) - 1) + 2 * (carryBit d c i : Int) = 0 := by
  rw [bitInt_eq, dig, carryBit]
  split
  · simp
  · ring

theorem combStage_step {d k i : Nat} {c : U256} (h : CombStage d k i c) (pos : 1 ≤ d) (hi : d ≤ i)
    (room : i < 255 ∨ i % d = d - 1) : CombStage d k (i + 1) (combCarryStep d c i) := by
  have above := h.above
  have carry := carryBit_le d c i
  have next : c.toNat / 2 ^ (i + 1) + carryBit d c i ≤ 2 ^ (252 - (i + 1)) := by
    rw [pow_succ, ← Nat.div_div_eq_div_mul]
    rcases Nat.lt_or_ge i 252 with below | top
    · rw [show 252 - i = (252 - (i + 1)) + 1 by omega, pow_succ] at above
      omega
    · rw [show 252 - i = 0 by omega] at above
      rw [show 252 - (i + 1) = 0 by omega]
      omega
  have fits : c.toNat + carryBit d c i * 2 ^ (i + 1) < 2 ^ 256 := by
    rcases room with below | sign
    · calc c.toNat + carryBit d c i * 2 ^ (i + 1)
          < (c.toNat / 2 ^ (i + 1) + carryBit d c i + 1) * 2 ^ (i + 1) := by
            have := Nat.lt_div_mul_add (a := c.toNat) (Nat.two_pow_pos (i + 1))
            linarith
        _ ≤ (2 ^ (252 - (i + 1)) + 1) * 2 ^ (i + 1) := Nat.mul_le_mul_right _ (by omega)
        _ = 2 ^ (252 - (i + 1) + (i + 1)) + 2 ^ (i + 1) := by ring
        _ ≤ 2 ^ 255 + 2 ^ 255 := Nat.add_le_add (Nat.pow_le_pow_right (by decide) (by omega))
            (Nat.pow_le_pow_right (by decide) (by omega))
        _ = 2 ^ 256 := by norm_num
    · rw [carryBit, sign, if_pos (h.sign_top pos), Nat.zero_mul]
      exact c.isLt
  have sum := combCarryStep_eq_add d c i fits
  have low : (combCarryStep d c i).toNat % 2 ^ (i + 1) = c.toNat % 2 ^ (i + 1) := by
    rw [sum, Nat.add_mul_mod_self_right]
  have high : (combCarryStep d c i).toNat / 2 ^ (i + 1) = c.toNat / 2 ^ (i + 1) + carryBit d c i := by
    rw [sum, Nat.add_mul_div_right _ _ (Nat.two_pow_pos _)]
  refine ⟨(mod_of_mod_eq low (by omega)).trans h.window, ?_, high ▸ next⟩
  have moved := combValue_sub pos (by omega) low
  rw [high, combValue_succ hi c, h.value] at moved
  have balance := carryBit_value d c i
  push_cast at moved
  linear_combination moved + 2 ^ i * balance

theorem combStage_loop {d k : Nat} (hd : 1 ≤ d ∧ d ≤ 64) {b : U256} (hb : b.toNat = k)
    (odd : k % 2 = 1) (small : k < 2 ^ 252) (n : Nat)
    (room : ∀ i, d ≤ i → i < d + n → i < 255 ∨ i % d = d - 1) :
    CombStage d k (d + n) (((List.range n).map (d + ·)).foldl (combCarryStep d) (combSignWindow d b)) := by
  induction n with
  | zero => exact combStage_window hd hb odd small
  | succ n ih =>
    rw [List.range_succ, List.map_append, List.foldl_append]
    exact combStage_step (ih fun i hi below => room i hi (by omega)) hd.1 (Nat.le_add_right d n)
      (room (d + n) (Nat.le_add_right d n) (by omega))

/-- Both tunings: the buffer after the last iteration (R152, R153). -/
theorem combStage_combRecode {d l k : Nat} (tuning : (d = 36 ∧ l = 252) ∨ (d = 32 ∧ l = 256)) {b : U256}
    (hb : b.toNat = k) (odd : k % 2 = 1) (small : k < 2 ^ 252) :
    CombStage d k l (combRecode d l b) := by
  have range : 1 ≤ d ∧ d ≤ 64 ∧ d + (l - d) = l := by omega
  obtain ⟨pos, short, whole⟩ := range
  have stage := combStage_loop ⟨pos, short⟩ hb odd small (l - d) fun i _ below => by
    obtain ⟨rfl, rfl⟩ | ⟨rfl, rfl⟩ := tuning <;> omega
  rwa [whole] at stage

/-! ### The obligations -/

theorem topCarry_toNat (b : U256) : (topCarry b).toNat = b.toNat / 2 ^ 252 % 2 := by
  rw [topCarry, ← BitVec.testBit_toNat, Nat.toNat_testBit]

/-- R155 for the working scalar as a number. -/
theorem combRecode72_above {b : U256} (odd : b.toNat % 2 = 1) (small : b.toNat < 2 ^ 252) :
    (combRecode 36 252 b >>> 252).toNat = (topCarry (combRecode 36 252 b)).toNat := by
  have stage := combStage_combRecode (.inl ⟨rfl, rfl⟩) rfl odd small
  have above := stage.above
  rw [topCarry_toNat, BitVec.toNat_ushiftRight, Nat.shiftRight_eq_div_pow]
  exact (Nat.mod_eq_of_lt (Nat.lt_succ_of_le above)).symm

/-- Settles O44: what is above bit 251 is at most one carry. -/
theorem topCarryIsOneBit : Obligations.TopCarryIsOneBit := by
  intro b low small
  have odd : b.toNat % 2 = 1 := by
    rw [← BitVec.testBit_toNat, Nat.testBit_zero, decide_eq_true_iff] at low
    exact low
  have stage := combStage_combRecode (.inl ⟨rfl, rfl⟩) rfl odd small
  have above := stage.above
  exact ⟨by omega, combRecode72_above odd small⟩

theorem combScalar_eq (k nk : U256) : combScalar k nk = if combLsb k then nk else k := by
  rw [combScalar, maskOf]
  cases combLsb k with
  | true => simp [-BitVec.reduceAllOnes]
  | false => simp [-BitVec.reduceAllOnes, -BitVec.reduceNot]

theorem combLsb_eq_true_iff (k : U256) : combLsb k = true ↔ k.toNat % 2 = 0 := by
  rw [combLsb, ← BitVec.testBit_toNat, Nat.testBit_zero]
  grind

/-- The working scalar `k'` of the comb recoder: `q − k` for an even `k`, else `k` (R151). -/
def workingScalar (cfg : Cfg) (k : U256) : Nat :=
  if combLsb k then cfg.qOrder - k.toNat else k.toNat

theorem workingScalar_spec {cfg : Cfg} {k : U256} (odd : cfg.qOrder % 2 = 1) (hk : scalarInDomain cfg k) :
    workingScalar cfg k % 2 = 1 ∧ 0 < workingScalar cfg k ∧ workingScalar cfg k < cfg.qOrder := by
  obtain ⟨pos, below⟩ := hk
  have even := combLsb_eq_true_iff k
  rw [workingScalar]
  split
  next h => have := even.1 h; omega
  next h => have := mt even.2 h; omega

theorem combScalar_toNat {cfg : Cfg} {k : U256} (hk : scalarInDomain cfg k)
    (neg : ∀ k, scalarInDomain cfg k → (cfg.curve.negModQ k).toNat = cfg.qOrder - k.toNat) :
    (combScalar k (cfg.curve.negModQ k)).toNat = workingScalar cfg k := by
  rw [combScalar_eq, workingScalar, apply_ite BitVec.toNat, neg k hk]

/-- Settles O43. -/
theorem combRecodeValueLaw : Obligations.CombRecodeValueLaw := by
  intro cfg s d l tuning odd bound neg hk k' hk'
  obtain rfl : k' = workingScalar cfg s.ka := hk'
  obtain ⟨odd', pos, below⟩ := workingScalar_spec odd hk
  have stage := combStage_combRecode tuning (combScalar_toNat hk neg) odd' (below.trans bound)
  exact ⟨odd', pos, below, stage.value.symm,
    signValue_of_window (by omega) odd' stage.window, rfl⟩

end Sys2Proof.Machine
end

section
/-! PROOFS. The static tables and the table generators over the contract (spec 42_table_generators.md,
44_comb_recoders.md section 4, 43_table_selectors.md R132, R139). -/

namespace Sys2Proof.Machine

/-! ### The masked scan (R132) -/

/-- Settles O46: a scan returns the wanted slot, and its only effect is on the trace. -/
theorem scanSelectFetchesTheSlot : Obligations.ScanSelectFetchesTheSlot :=
  ⟨fun _ s hk => Prod.ext (scanTab_fst s hk) (scanTab_snd ..),
    fun cfg m _ s hk => Prod.ext (scanRom_fst cfg m s hk) (scanRom_snd ..)⟩

/-! ### Affine pairs in extended coordinates (R139, R216) -/

section FieldLevel

variable {F : Type} [Field F] {cfg : Cfg}

theorem extOfAffine_eq_ecExpand (L : FieldLaws cfg F) (e : Affine) :
    extOfAffine cfg.curve e = cfg.curve.ecExpand e.x e.y :=
  (L.ecExpand_fields e.x e.y).symm

/-- The expanded pair stands for the pair's own coordinates, if they are on the curve. -/
theorem represents_extOfAffine (L : FieldLaws cfg F) {e : Affine}
    (h : onCurve (L.dec cfg.dCurve) (L.dec e.x) (L.dec e.y)) :
    L.represents cfg (extOfAffine cfg.curve e) (L.dec e.x) (L.dec e.y) := by
  have one : L.dec (extOfAffine cfg.curve e).z = 1 := L.feOne
  refine ⟨by rw [one]; exact one_ne_zero, ?_, ?_, h, ?_⟩
  · rw [one, div_one]; rfl
  · rw [one, div_one]; rfl
  · rw [one, mul_one]
    exact (L.feMul e.x e.y).symm

/-- Only a pair on the curve expands to a representation. -/
theorem onCurve_of_represents_extOfAffine (L : FieldLaws cfg F) {e : Affine} {u v : F}
    (h : L.represents cfg (extOfAffine cfg.curve e) u v) :
    onCurve (L.dec cfg.dCurve) (L.dec e.x) (L.dec e.y) := by
  obtain ⟨-, hx, hy, curve, -⟩ := h
  have one : L.dec (extOfAffine cfg.curve e).z = 1 := L.feOne
  rw [one, div_one] at hx hy
  rwa [← hx, ← hy] at curve

end FieldLevel

/-- Settles O55: the expanded pair has `z = 1`, so it stands for its own coordinates or for nothing. -/
theorem affineToExtRepresents : Obligations.AffineToExtRepresents := by
  intro F _ cfg L e s
  rw [affineToExt_fst]
  refine ⟨extOfAffine_eq_ecExpand L e, fun h => ?_, fun h u v rep => ?_, fun u v rep => ?_⟩
  · exact ⟨represents_extOfAffine L h, L.ecAffine _ _ _ (represents_extOfAffine L h)⟩
  · exact h (onCurve_of_represents_extOfAffine L rep)
  · exact rep.1 L.dec_zero

/-! ### The comb multiples (44_comb_recoders.md R159, R161) -/

theorem combMultiple_eq_sum (d rows i : Nat) :
    combMultiple d rows i =
      1 + ∑ wp ∈ Finset.Ico 1 (rows + 1), (i / 2 ^ (wp - 1) % 2) * 2 ^ (d * wp) := by
  rw [Finset.sum_Ico_eq_sum_range, Nat.add_sub_cancel]
  change 1 + ∑ j ∈ Finset.range rows, i / 2 ^ j % 2 * 2 ^ (d * (j + 1)) = _
  refine congrArg (1 + ·) (Finset.sum_congr rfl fun j _ => ?_)
  rw [Nat.add_sub_cancel_left, Nat.add_comm 1 j]

theorem combMultiple_pos (d rows i : Nat) : 1 ≤ combMultiple d rows i := Nat.le_add_right 1 _

theorem combMultiple_lt {d : Nat} (hd : 1 ≤ d) (rows i : Nat) :
    combMultiple d rows i < 2 ^ (d * rows + 1) := by
  induction rows with
  | zero => simp [combMultiple]
  | succ rows ih =>
    rw [combMultiple_eq_sum] at ih ⊢
    rw [Finset.sum_Ico_succ_top (by omega), Nat.add_sub_cancel]
    have bit : i / 2 ^ rows % 2 * 2 ^ (d * (rows + 1)) ≤ 2 ^ (d * (rows + 1)) := by
      nlinarith [Nat.mod_lt (i / 2 ^ rows) (show 0 < 2 by decide), Nat.two_pow_pos (d * (rows + 1))]
    have row : 2 ^ (d * rows + 1) ≤ 2 ^ (d * (rows + 1)) :=
      Nat.pow_le_pow_right (by decide) (by rw [Nat.mul_succ]; omega)
    rw [pow_succ 2 (d * (rows + 1))]
    omega

theorem romMultiple_range (m : AffineRom) (i : Nat) : 1 ≤ romMultiple m i ∧ romMultiple m i < 2 * 2 ^ 256 := by
  have pos36 := combMultiple_pos 36 6 i
  have small36 := combMultiple_lt (d := 36) (by decide) 6 i
  have pos32 := combMultiple_pos 32 7 i
  have small32 := combMultiple_lt (d := 32) (by decide) 7 i
  cases m <;> simp only [romMultiple] <;> omega

section Tables

variable {F E : Type} [Field F] [AddCommGroup E] {cfg : Cfg}

/-- A representation of an element, under another name of it. -/
theorem rep_congr (L : GroupLaws cfg F E) {V : Ecpt} {A B : E} (h : L.rep V A) (e : A = B) : L.rep V B :=
  e ▸ h

/-- The offline generator's multiple, whatever meets the contract (log 8). -/
theorem rep_multiple (L : GroupLaws cfg F E) {U : Ecpt} {A : E} (hU : L.rep U A) (fuel : Nat) {n : Nat}
    (pos : 1 ≤ n) (bound : n < 2 * 2 ^ fuel) : L.rep (multiple cfg.curve fuel n U) (n • A) := by
  induction fuel generalizing n with
  | zero =>
    obtain rfl : n = 1 := by omega
    rwa [multiple, one_smul]
  | succ fuel ih =>
    rw [multiple]
    split
    · obtain rfl : n = 1 := by omega
      rwa [one_smul]
    · have twice := L.ecDbl _ _ (ih (n := n / 2) (by omega) (by omega))
      rw [← add_smul] at twice
      dsimp only
      split
      · have sum := L.ecAdd _ _ _ _ twice hU
        rwa [← succ_nsmul, show n / 2 + n / 2 + 1 = n by omega] at sum
      · rwa [show n / 2 + n / 2 = n by omega] at twice

theorem affineMultipleOfG_eq (L : GroupLaws cfg F E) {n : Nat} (pos : 1 ≤ n) (bound : n < 2 * 2 ^ 256) :
    affineMultipleOfG cfg n = L.encode (n • L.g) :=
  L.ecAffine_rep (rep_multiple L (L.ecExpand_rep L.generator_affine) 256 pos bound)

theorem romEntry_eq (L : GroupLaws cfg F E) (m : AffineRom) (i : Nat) :
    romEntry cfg m i = L.encode (romMultiple m i • L.g) :=
  affineMultipleOfG_eq L (romMultiple_range m i).1 (romMultiple_range m i).2

/-- A fetched and expanded ROM entry represents its multiple of `G`. -/
theorem rep_romEntry (L : GroupLaws cfg F E) (m : AffineRom) (i : Nat) :
    L.rep (extOfAffine cfg.curve (romEntry cfg m i)) (romMultiple m i • L.g) := by
  rw [extOfAffine_eq_ecExpand L.toFieldLaws, romEntry_eq L]
  exact L.ecExpand_rep (L.repAffine_encode _)

/-- The m=2 table as group elements (R120). -/
theorem rep_gentab2Table (L : GroupLaws cfg F E) {U V : Ecpt} {A B : E} (hU : L.rep U A) (hV : L.rep V B)
    {k : Nat} (hk : k < 8) : L.rep (gentab2Table cfg.curve U V)[k] (slot2Value k A B) := by
  have a3 := L.ecAdd _ _ _ _ (L.ecDbl _ _ hU) hU
  have a3b := L.ecAdd _ _ _ _ a3 hV
  have a3b2 := L.ecAdd _ _ _ _ a3b hV
  have a3b3 := L.ecAdd _ _ _ _ a3b2 hV
  have amb := L.ecAdd _ _ _ _ hU (L.ecNeg _ _ hV)
  have ab := L.ecAdd _ _ _ _ hU hV
  have ab2 := L.ecAdd _ _ _ _ ab hV
  interval_cases k
  · exact rep_congr L a3 (by rw [slot2Value, if_pos rfl]; module)
  · exact rep_congr L a3b (by rw [slot2Value, if_pos rfl]; module)
  · exact rep_congr L a3b2 (by rw [slot2Value, if_pos rfl]; module)
  · exact rep_congr L a3b3 (by rw [slot2Value, if_pos rfl]; module)
  · exact rep_congr L hU (by rw [slot2Value, if_neg (by decide)]; module)
  · exact rep_congr L amb (by rw [slot2Value, if_neg (by decide)]; module)
  · exact rep_congr L ab2 (by rw [slot2Value, if_neg (by decide)]; module)
  · exact rep_congr L ab (by rw [slot2Value, if_neg (by decide)]; module)

/-- The m=4 table as group elements (R122). -/
theorem rep_gentab4Table (L : GroupLaws cfg F E) {U V W Z : Ecpt} {A B C D : E} (hU : L.rep U A)
    (hV : L.rep V B) (hW : L.rep W C) (hZ : L.rep Z D) {k : Nat} (hk : k < 8) :
    L.rep (gentab4Table cfg.curve U V W Z)[k] (slot4Value k A B C D) := by
  have ab := L.ecAdd _ _ _ _ hU hV
  have ac := L.ecAdd _ _ _ _ hU hW
  have abc := L.ecAdd _ _ _ _ ab hW
  have ad := L.ecAdd _ _ _ _ hU hZ
  have abd := L.ecAdd _ _ _ _ ab hZ
  interval_cases k
  · exact rep_congr L hU (by rw [slot4Value]; module)
  · exact rep_congr L ab (by rw [slot4Value]; module)
  · exact rep_congr L ac (by rw [slot4Value]; module)
  · exact rep_congr L abc (by rw [slot4Value]; module)
  · exact rep_congr L ad (by rw [slot4Value]; module)
  · exact rep_congr L abd (by rw [slot4Value]; module)
  · exact rep_congr L (L.ecAdd _ _ _ _ ac hZ) (by rw [slot4Value]; module)
  · exact rep_congr L (L.ecAdd _ _ _ _ abc hZ) (by rw [slot4Value]; module)

theorem slot_gentab2 (c : Curve) (s : State) {k : Nat} (hk : k < 8) :
    (gentab2 c s).slot k = (gentab2Table c s.b0 s.b1)[k] := by
  rw [gentab2_eq, State.slot, Vector.getElem?_eq_getElem hk, Option.getD_some]

theorem slot_gentab4 (c : Curve) (s : State) {k : Nat} (hk : k < 8) :
    (gentab4 c s).slot k = (gentab4Table c s.b0 s.b1 s.b2 s.b3)[k] := by
  rw [gentab4_eq, State.slot, Vector.getElem?_eq_getElem hk, Option.getD_some]

end Tables

/-! ### The obligations -/

/-- Settles O52. -/
theorem genTab2Slots : Obligations.GenTab2Slots := by
  intro F E _ _ cfg L s A B hA hB
  refine ⟨fun k hk => ?_, _, _, _, _, gentab2_eq cfg.curve s⟩
  rw [slot_gentab2 _ _ hk]
  exact rep_gentab2Table L hA hB hk

/-- Settles O53. -/
theorem genTab4Slots : Obligations.GenTab4Slots := by
  intro F E _ _ cfg L s A B C D hA hB hC hD
  refine ⟨fun k hk => ?_, _, _, gentab4_eq cfg.curve s⟩
  rw [slot_gentab4 _ _ hk]
  exact rep_gentab4Table L hA hB hC hD hk

/-- Settles O54: every entry is the offline generator's multiple, by `romEntry_eq`. -/
theorem romHoldsMultiplesOfG : Obligations.RomHoldsMultiplesOfG := by
  intro F E _ _ cfg L
  have fix : affineMultipleOfG cfg (2 ^ 252) = L.encode (2 ^ 252 • L.g) :=
    affineMultipleOfG_eq L Nat.one_le_two_pow (by norm_num)
  refine ⟨fun i _ => ⟨?_, ?_⟩, fun i _ => ?_, congrArg Affine.x fix, congrArg Affine.y fix, rfl⟩
  · rw [romEntry_eq L, romMultiple, combMultiple_eq_sum]
  · rw [romEntry_eq L, romMultiple, combMultiple_eq_sum]
  · rw [romEntry_eq L, romMultiple, combMultiple_eq_sum]

end Sys2Proof.Machine
end

section
/-! PROOFS. The selectors over the contract (spec 43_table_selectors.md R133 to R138): which slot an index
names, which multiple the signed entry is, and what the selected windows and columns sum to. -/

namespace Sys2Proof.Machine

/-! ### Indices as bits (30_encoding.md R88 to R91) -/

theorem sel2Index_testBit (a b : U128) (i : Nat) :
    (sel2Index a b i).testBit 0 = b.getLsbD i ∧ (sel2Index a b i).testBit 1 = b.getLsbD (i + 1) ∧
      (sel2Index a b i).testBit 2 = (a.getLsbD i ^^ a.getLsbD (i + 1)) := by
  simp only [sel2Index, BitVec.testBit_toNat, BitVec.getLsbD_or, BitVec.getLsbD_and,
    BitVec.getLsbD_shiftLeft, BitVec.getLsbD_ushiftRight, BitVec.getLsbD_xor]
  refine ⟨?_, ?_, ?_⟩ <;> simp

theorem sel4Index_testBit (b c d : U128) (i : Nat) :
    (sel4Index b c d i).testBit 0 = b.getLsbD i ∧ (sel4Index b c d i).testBit 1 = c.getLsbD i ∧
      (sel4Index b c d i).testBit 2 = d.getLsbD i := by
  simp only [sel4Index, BitVec.testBit_toNat, BitVec.getLsbD_or, BitVec.getLsbD_and,
    BitVec.getLsbD_shiftLeft, BitVec.getLsbD_ushiftRight]
  refine ⟨?_, ?_, ?_⟩ <;> simp

theorem testBit_toNat_shiftLeft (b : Bool) (n j : Nat) :
    (b.toNat <<< n).testBit j = (decide (n = j) && b) := by
  cases b with
  | false => simp
  | true => rw [Bool.toNat_true, Nat.one_shiftLeft, Nat.testBit_two_pow, Bool.and_true]

theorem combIndex_testBit (rb : U256) (d e rows vp ep : Nat) (j : Nat) :
    (combIndex rb d e rows vp ep).testBit j = (decide (j < rows) && combBit rb d e (j + 1) vp ep) := by
  unfold combIndex
  induction rows with
  | zero => simp
  | succ rows ih =>
    rw [List.range_succ, List.foldl_append, List.foldl_cons, List.foldl_nil, Nat.testBit_or, ih,
      testBit_toNat_shiftLeft]
    grind

/-- The multiple of `G` a comb index selects, over the bits of its column (R157 to R161). -/
theorem combMultiple_combIndex (rb : U256) (d e rows vp ep : Nat) :
    ((combMultiple d rows (combIndex rb d e rows vp ep) : Nat) : Int) =
      1 + ∑ wp ∈ Finset.Ico 1 (rows + 1), bitInt rb (wp * d + vp * e + ep) * 2 ^ (d * wp) := by
  rw [combMultiple_eq_sum]
  push_cast
  refine congrArg (1 + ·) (Finset.sum_congr rfl fun wp hwp => ?_)
  obtain ⟨pos, below⟩ := Finset.mem_Ico.1 hwp
  have bit := combIndex_testBit rb d e rows vp ep (wp - 1)
  rw [Nat.sub_add_cancel pos, decide_eq_true (by omega), Bool.true_and, combBit] at bit
  have cast := Nat.toNat_testBit (combIndex rb d e rows vp ep) (wp - 1)
  rw [bit] at cast
  congr 1
  rw [bitInt]
  norm_cast
  rw [← cast]
  cases rb.getLsbD (wp * d + vp * e + ep) <;> rfl

/-! ### What an index names in its table -/

theorem bitInt_toNat {w : Nat} (s : BitVec w) (i : Nat) : bitInt s i = ((s.getLsbD i).toNat : Int) := by
  rw [bitInt]
  cases s.getLsbD i <;> rfl

section Values

variable {E : Type} [AddCommGroup E]

/-- The signed slot of an m=2 window is the value of its two columns (R134). -/
theorem signed_slot2Value (a b : U128) (i : Nat) (A B : E) :
    (if sel2Neg a i then -slot2Value (sel2Index a b i) A B else slot2Value (sel2Index a b i) A B) =
      window2Value a b i A B := by
  obtain ⟨low, mid, top⟩ := sel2Index_testBit a b i
  have low := (Nat.toNat_testBit _ _).symm.trans (congrArg Bool.toNat low)
  have mid := (Nat.toNat_testBit _ _).symm.trans (congrArg Bool.toNat mid)
  have top := (Nat.toNat_testBit _ _).symm.trans (congrArg Bool.toNat top)
  norm_num at low mid top
  rw [sel2Neg_eq, slot2Value, top, mid, low, window2Value, bitInt_toNat, bitInt_toNat, dig, dig]
  cases a.getLsbD i <;> cases a.getLsbD (i + 1) <;> simp <;> module

/-- The signed slot of an m=4 column is the value of the column (R136). -/
theorem signed_slot4Value (a b c d : U128) (i : Nat) (A B C D : E) :
    (if sel4Neg a i then -slot4Value (sel4Index b c d i) A B C D
      else slot4Value (sel4Index b c d i) A B C D) = window4Value a b c d i A B C D := by
  obtain ⟨low, mid, top⟩ := sel4Index_testBit b c d i
  have low := (Nat.toNat_testBit _ _).symm.trans (congrArg Bool.toNat low)
  have mid := (Nat.toNat_testBit _ _).symm.trans (congrArg Bool.toNat mid)
  have top := (Nat.toNat_testBit _ _).symm.trans (congrArg Bool.toNat top)
  norm_num at low mid top
  rw [sel4Neg_eq, slot4Value, top, mid, low, window4Value, bitInt_toNat, bitInt_toNat, bitInt_toNat, dig]
  cases a.getLsbD i with
  | true => simp
  | false =>
    simp only [Bool.not_false, if_true, Bool.false_eq_true, if_false, neg_one_zsmul, natCast_zsmul]

/-- The first `n` windows of an m=2 table, weighted by powers of 4 (R134). -/
theorem sum_window2Value (a b : U128) (A B : E) (n : Nat) :
    ∑ j ∈ Finset.range n, (4 : Int) ^ j • window2Value a b (2 * j) A B =
      signValue (2 * n) a • A + companionValue (2 * n) a b • B := by
  induction n with
  | zero => simp [signValue, companionValue]
  | succ n ih =>
    have weight : (4 : Int) ^ n = 2 ^ (2 * n) := by rw [pow_mul]; norm_num
    rw [Finset.sum_range_succ, ih, weight, window2Value, Nat.mul_succ]
    simp only [signValue, companionValue, Finset.sum_range_succ, pow_succ]
    module

/-- The first `n` columns of an m=4 table, weighted by powers of 2 (R136). -/
theorem sum_window4Value (a b c d : U128) (A B C D : E) (n : Nat) :
    ∑ i ∈ Finset.range n, (2 : Int) ^ i • window4Value a b c d i A B C D =
      signValue n a • A + companionValue n a b • B + companionValue n a c • C +
        companionValue n a d • D := by
  induction n with
  | zero => simp [signValue, companionValue]
  | succ n ih =>
    rw [Finset.sum_range_succ, ih, window4Value]
    simp only [signValue, companionValue, Finset.sum_range_succ]
    module

end Values

/-! ### The selected points -/

section Selected

variable {F E : Type} [Field F] [AddCommGroup E] {cfg : Cfg}

/-- The table RAM holds the m=2 table of `A`, `B` (R120). -/
def Table2 (L : GroupLaws cfg F E) (s : State) (A B : E) : Prop :=
  ∀ k, k < 8 → L.rep (s.slot k) (slot2Value k A B)

/-- The table RAM holds the m=4 table of `A` to `D` (R122). -/
def Table4 (L : GroupLaws cfg F E) (s : State) (A B C D : E) : Prop :=
  ∀ k, k < 8 → L.rep (s.slot k) (slot4Value k A B C D)

theorem point_setPoint_self (s : State) (dest : PointReg) (v : Ecpt) :
    (s.setPoint dest v).point dest = v := by
  cases dest <;> rfl

theorem rep_sel2 (L : GroupLaws cfg F E) {s : State} {A B : E} (table : Table2 L s A B) (index : Nat)
    (ct : Bool) (dest : PointReg) :
    L.rep ((sel2 cfg index ct dest s).point dest) (window2Value s.s0 s.s1 index A B) := by
  rw [sel2_eq, point_setPoint_self]
  exact rep_congr L (L.ecCondNeg _ _ _ (table _ (sel2Index_lt ..))) (signed_slot2Value ..)

theorem rep_sel4 (L : GroupLaws cfg F E) {s : State} {A B C D : E} (table : Table4 L s A B C D)
    (index : Nat) (dest : PointReg) :
    L.rep ((sel4 cfg index dest s).point dest) (window4Value s.s0 s.s1 s.s2 s.s3 index A B C D) := by
  rw [sel4_eq, point_setPoint_self]
  exact rep_congr L (L.ecCondNeg _ _ _ (table _ (sel4Index_lt ..))) (signed_slot4Value ..)

/-- What a column of tuning 72 stands for: its sign times its multiple of `G` (R157, R159). -/
def comb72Value (rb : U256) (vp ep : Nat) : Int :=
  dig rb (vp * 18 + ep) * (2 ^ (18 * vp) *
    (1 + ∑ wp ∈ Finset.Ico 1 7, bitInt rb (wp * 36 + vp * 18 + ep) * 2 ^ (36 * wp)))

/-- What a column of tuning 81 stands for (R158, R161). -/
def comb81Value (rb : U256) (ep : Nat) : Int :=
  dig rb ep * (1 + ∑ wp ∈ Finset.Ico 1 8, bitInt rb (wp * 32 + ep) * 2 ^ (32 * wp))

/-- A conditional negation by a complemented sign bit multiplies by the sign. -/
theorem ite_neg_zsmul (sign : Bool) (n : Int) (A : E) :
    (if sign ^^ true then -(n • A) else n • A) = ((if sign then 1 else -1 : Int) * n) • A := by
  cases sign <;> simp

theorem rep_selcomb72_ts (L : GroupLaws cfg F E) (s : State) (ep : Nat) :
    L.rep (selcomb72 cfg ep s).ts (comb72Value s.rb 0 ep • L.g) := by
  rw [selcomb72_eq]
  refine rep_congr L (L.ecCondNeg _ _ _ (rep_romEntry L .gt0 _)) ?_
  rw [romMultiple, ← natCast_zsmul, ite_neg_zsmul, combIndex72, combMultiple_combIndex, comb72Value]
  simp only [combSign72, combBit, dig, Nat.zero_mul, Nat.zero_add, Nat.mul_zero, pow_zero, one_mul]

theorem rep_selcomb72_tt (L : GroupLaws cfg F E) (s : State) (ep : Nat) :
    L.rep (selcomb72 cfg ep s).tt (comb72Value s.rb 1 ep • L.g) := by
  rw [selcomb72_eq]
  refine rep_congr L (L.ecCondNeg _ _ _ (rep_romEntry L .gt1 _)) ?_
  rw [romMultiple, ← natCast_zsmul, ite_neg_zsmul, Nat.cast_mul, combIndex72, combMultiple_combIndex,
    comb72Value]
  simp only [combSign72, combBit, dig, Nat.zero_mul, Nat.zero_add, Nat.mul_one, Nat.one_mul]
  norm_num

theorem rep_selcomb81 (L : GroupLaws cfg F E) (s : State) (ep : Nat) :
    L.rep (selcomb81 cfg ep s).tt (((if s.clsb then -1 else 1) * comb81Value s.rb ep) • L.g) := by
  rw [selcomb81_eq]
  refine rep_congr L (L.ecCondNeg _ _ _ (rep_romEntry L .sgt _)) ?_
  rw [romMultiple, ← natCast_zsmul, Bool.xor_right_comm, ite_neg_zsmul, combIndex81, combMultiple_combIndex,
    comb81Value]
  simp only [combSign81, combBit, dig, Nat.zero_mul, Nat.zero_add, Nat.add_zero]
  cases s.clsb <;> cases s.rb.getLsbD ep <;> simp

end Selected

/-! ### The obligations -/

/-- Settles O48. -/
theorem sel2ValueLaw : Obligations.Sel2ValueLaw := by
  intro F E _ _ cfg L s A B table
  exact ⟨fun index ct dest _ _ => rep_sel2 L table index ct dest, sum_window2Value s.s0 s.s1 A B 64⟩

/-- Settles O49. -/
theorem sel4ValueLaw : Obligations.Sel4ValueLaw := by
  intro F E _ _ cfg L s A B C D table
  exact ⟨fun index dest _ => rep_sel4 L table index dest,
    sum_window4Value s.s0 s.s1 s.s2 s.s3 A B C D 127⟩

/-- Settles O50: each half is a scan of its ROM, so an entry's multiple with the sign of its column. -/
theorem selComb72ValueLaw : Obligations.SelComb72ValueLaw := by
  intro F E _ _ cfg L s ep _
  refine ⟨rep_congr L (rep_selcomb72_ts L s ep) ?_, rep_congr L (rep_selcomb72_tt L s ep) ?_⟩
  · simp only [comb72Value, Nat.zero_mul, Nat.zero_add, Nat.add_zero, Nat.mul_zero, pow_zero, one_mul]
  · simp only [comb72Value, Nat.one_mul, Nat.mul_one]

/-- Settles O51. -/
theorem selComb81ValueLaw : Obligations.SelComb81ValueLaw := by
  intro F E _ _ cfg L s ep _
  exact rep_congr L (rep_selcomb81 L s ep) (by rw [comb81Value, mul_assoc])

end Sys2Proof.Machine
end

section
/-! PROOFS. What the drivers have in common (spec 45_drivers.md section 2): the rules for `X` over the
contract, the ladder as a Horner sum, and the decomposition of a scalar. -/

namespace Sys2Proof.Machine

/-! ### What a ladder reads and does not write -/

/-- The registers a ladder and its corrections read beside the points `X`, `TS`, `TT` are the same. -/
structure SameInputs (s t : State) : Prop where
  tab : t.tab = s.tab
  s0 : t.s0 = s.s0
  s1 : t.s1 = s.s1
  s2 : t.s2 = s.s2
  s3 : t.s3 = s.s3
  lsb : t.lsb = s.lsb
  b0 : t.b0 = s.b0
  rb : t.rb = s.rb
  clsb : t.clsb = s.clsb

theorem SameInputs.refl (s : State) : SameInputs s s := ⟨rfl, rfl, rfl, rfl, rfl, rfl, rfl, rfl, rfl⟩

theorem SameInputs.trans {s t u : State} (h : SameInputs s t) (g : SameInputs t u) : SameInputs s u :=
  ⟨g.tab.trans h.tab, g.s0.trans h.s0, g.s1.trans h.s1, g.s2.trans h.s2, g.s3.trans h.s3,
    g.lsb.trans h.lsb, g.b0.trans h.b0, g.rb.trans h.rb, g.clsb.trans h.clsb⟩

/-- A micro-operation on the points `X`, `TS`, `TT` alone. -/
def MicroOp.onPoints (m : MicroOp) : Prop := m.writes ⊆ [.ts, .tt, .x]

theorem sameInputs_runMicro (cfg : Cfg) {m : MicroOp} (hm : m.onPoints) (s : State) :
    SameInputs s (runMicro cfg m s) := by
  have kept {reg : Reg} (h : reg ∉ [Reg.ts, .tt, .x]) : SameIn (runMicro cfg m s) s reg :=
    (runMicro_sameIn_of_notMem_writes cfg m s fun hw => h (hm hw)).symm
  exact ⟨kept (reg := .tab) (by decide), kept (reg := .s0) (by decide), kept (reg := .s1) (by decide),
    kept (reg := .s2) (by decide), kept (reg := .s3) (by decide), kept (reg := .lsb) (by decide),
    kept (reg := .b0) (by decide), kept (reg := .rb) (by decide), kept (reg := .clsb) (by decide)⟩

section Drivers

variable {F E : Type} [Field F] [AddCommGroup E] {cfg : Cfg}

theorem Table2.of_sameInputs {L : GroupLaws cfg F E} {s t : State} {A B : E} (table : Table2 L s A B)
    (h : SameInputs s t) : Table2 L t A B := fun k hk => slot_congr h.tab k ▸ table k hk

theorem Table4.of_sameInputs {L : GroupLaws cfg F E} {s t : State} {A B C D : E}
    (table : Table4 L s A B C D) (h : SameInputs s t) : Table4 L t A B C D :=
  fun k hk => slot_congr h.tab k ▸ table k hk

/-! ### The rules for `X` -/

/-- At `t`, reached from `s` by work on points alone, `X` represents `V`. -/
structure XHolds (L : GroupLaws cfg F E) (s t : State) (V : E) : Prop where
  inputs : SameInputs s t
  x : L.rep t.x V

theorem XHolds.congr {L : GroupLaws cfg F E} {s t : State} {V W : E} (h : XHolds L s t V) (e : V = W) :
    XHolds L s t W := e ▸ h

/-- A selection into `TS`, `TT` leaves `X`. -/
theorem XHolds.select {L : GroupLaws cfg F E} {s t : State} {V : E} (h : XHolds L s t V) {m : MicroOp}
    (hm : m.writes ⊆ [.ts, .tt]) : XHolds L s (runMicro cfg m t) V where
  inputs := h.inputs.trans (sameInputs_runMicro cfg (List.Subset.trans hm (by decide)) t)
  x := by
    have kept : (runMicro cfg m t).x = t.x :=
      (runMicro_sameIn_of_notMem_writes (reg := .x) cfg m t fun hw => absurd (hm hw) (by decide)).symm
    rw [kept]
    exact h.x

theorem XHolds.dbl {L : GroupLaws cfg F E} {s t : State} {V : E} (h : XHolds L s t V) :
    XHolds L s (runMicro cfg .dbl t) (V + V) where
  inputs := h.inputs.trans (sameInputs_runMicro cfg (by simp [MicroOp.onPoints, MicroOp.writes]) t)
  x := L.ecDbl _ _ h.x

theorem XHolds.add {L : GroupLaws cfg F E} {s t : State} {V W : E} (h : XHolds L s t V) {u : PointReg}
    (hu : L.rep (t.point u) W) : XHolds L s (runMicro cfg (.add .x u) t) (V + W) where
  inputs := h.inputs.trans (sameInputs_runMicro cfg (by simp [MicroOp.onPoints, MicroOp.writes]) t)
  x := L.ecAdd _ _ _ _ h.x hu

/-- The correction for an even subscalar (R189). -/
theorem XHolds.correctGlv {L : GroupLaws cfg F E} {s t : State} {V A : E} (h : XHolds L s t V)
    (base : L.rep s.b0 A) :
    XHolds L s (runMicro cfg .correctGlv t) (V + (if s.lsb then 1 else 0 : Int) • A) where
  inputs := h.inputs.trans (sameInputs_runMicro cfg (by simp [MicroOp.onPoints, MicroOp.writes]) t)
  x := by
    have sum : L.rep (runMicro cfg .correctGlv t).x (if t.lsb then V + A else V) :=
      L.ecCondAdd _ _ _ _ _ h.x (h.inputs.b0.symm ▸ base)
    refine rep_congr L sum ?_
    rw [h.inputs.lsb]
    cases s.lsb <;> simp

/-- The two cofactor doublings (R190). -/
theorem XHolds.cofactor {L : GroupLaws cfg F E} {s t : State} {V : E} (h : XHolds L s t V) :
    XHolds L s (runMicros cfg cofactorOps t) (4 • V) :=
  h.dbl.dbl.congr (by module)

/-- One m=2 iteration: four times `X`, and the window (R180). -/
theorem XHolds.window2 {L : GroupLaws cfg F E} {s t : State} {V A B : E} (h : XHolds L s t V)
    (table : Table2 L s A B) (ct : Bool) (ii : BitVec 8) :
    XHolds L s (runMicros cfg (window2Ops ct ii) t)
      ((4 : Int) • V + window2Value s.s0 s.s1 ii.toNat A B) := by
  have doubled := h.dbl.dbl
  have selected := rep_sel2 L (table.of_sameInputs doubled.inputs) ii.toNat ct .tt
  rw [doubled.inputs.s0, doubled.inputs.s1] at selected
  exact ((doubled.select (m := .sel2 ii.toNat ct .tt) (by simp [MicroOp.writes, PointReg.reg])).add
    (u := .tt) selected).congr (by module)

/-! ### The ladder as a Horner sum (R180 to R187) -/

/-- Something that every iteration moves on holds after the last. -/
theorem Ladder.Regular.run {l : Ladder} {n : Nat} (h : l.Regular n) (cfg : Cfg) {P : Nat → State → Prop}
    (step : ∀ j s, j ≤ n → P j s → P (j + 1) (runMicros cfg (l.body (l.index j)) s)) {s : State}
    (start : P 0 s) : P (n + 1) (runMicros cfg l.program s) := by
  have upTo : ∀ m, m ≤ n + 1 → P m (runMicros cfg (((List.range m).map l.index).flatMap l.body) s) := by
    intro m hm
    induction m with
    | zero => exact start
    | succ m ih =>
      rw [List.range_succ, List.map_append, List.flatMap_append, runMicros_append, List.map_singleton,
        List.flatMap_singleton]
      exact step m _ (by omega) (ih (by omega))
  rw [Ladder.program, h.indices_eq]
  exact upTo (n + 1) le_rfl

/-- The weighted sum of the terms from number `i` on, the term at `i` with weight 1. -/
def hornerTail (c : Int) (f : Nat → E) (n i : Nat) : E :=
  ∑ t ∈ Finset.range (n - i), c ^ t • f (i + t)

theorem hornerTail_zero (c : Int) (f : Nat → E) (n : Nat) :
    hornerTail c f n 0 = ∑ i ∈ Finset.range n, c ^ i • f i := by
  simp only [hornerTail, Nat.sub_zero, Nat.zero_add]

theorem hornerTail_top (c : Int) (f : Nat → E) (n : Nat) : hornerTail c f (n + 1) n = f n := by
  simp [hornerTail]

theorem hornerTail_step (c : Int) (f : Nat → E) {n i : Nat} (hi : i < n) :
    hornerTail c f n i = c • hornerTail c f n (i + 1) + f i := by
  rw [hornerTail, show n - i = n - (i + 1) + 1 by omega, Finset.sum_range_succ', pow_zero, one_smul,
    hornerTail, Finset.smul_sum, Nat.add_zero]
  refine congrArg (· + f i) (Finset.sum_congr rfl fun t _ => ?_)
  rw [smul_smul, ← pow_succ', Nat.add_right_comm i 1 t, Nat.add_assoc]

/-- A ladder whose iteration at the `i`-th index from the end takes `X` to `c·X + f i`, from a seed of the
term above the first. -/
theorem Ladder.Regular.horner {L : GroupLaws cfg F E} {l : Ladder} {n : Nat} (h : l.Regular n) {c : Int}
    {f : Nat → E} {r : Nat} (hlast : l.last.toNat = 0) (hstride : l.stride.toNat = r) {s t : State}
    (seed : XHolds L s t (f (n + 1)))
    (step : ∀ i ii, ii.toNat = r * i → ∀ u V, XHolds L s u V →
      XHolds L s (runMicros cfg (l.body ii) u) (c • V + f i)) :
    XHolds L s (runMicros cfg l.program t) (∑ i ∈ Finset.range (n + 2), c ^ i • f i) := by
  have all := h.run cfg (P := fun j u => XHolds L s u (hornerTail c f (n + 2) (n + 1 - j)))
    (fun j u hj hu => by
      rw [show n + 1 - (j + 1) = n - j by omega, hornerTail_step c f (by omega),
        show n - j + 1 = n + 1 - j by omega]
      exact step (n - j) _ (by rw [h.index_toNat hj, hlast, hstride, Nat.zero_add]) u _ hu)
    (show XHolds L s t _ by rw [Nat.sub_zero, hornerTail_top]; exact seed)
  rwa [Nat.sub_self, hornerTail_zero] at all

/-- The ladder of a command, with its number of strides. -/
theorem planOf_ladder_regular {i : Instr} {l : Ladder} {n : Nat} (hl : (planOf i).ladder = some l)
    (hn : l.first.toNat = l.last.toNat + l.stride.toNat * n) : l.Regular n := by
  obtain ⟨m, hm⟩ := (planOf_regular i).ladder l hl
  have same : l.stride.toNat * m = l.stride.toNat * n := by
    have := hm.first_eq
    omega
  rwa [Nat.eq_of_mul_eq_mul_left hm.stride_pos same] at hm

/-! ### The decomposition of a scalar (46_external_collaborators.md R222 to R224) -/

/-- The first base of a scalar's decomposition: the point with its sign (R178). -/
def glvFirst (cfg : Cfg) (k : U256) (A : E) : E := if (cfg.curve.glsDecompose k).sa then -A else A

/-- The second base: the endomorphism's image with its sign (R178). -/
def glvSecond (L : GroupLaws cfg F E) (k : U256) (A : E) : E :=
  if (cfg.curve.glsDecompose k).sb then -L.phi A else L.phi A

theorem rep_glvFirst (L : GroupLaws cfg F E) (k : U256) {e : Affine} {A : E} (he : L.repAffine e A) :
    L.rep (cfg.curve.ecCondNeg (cfg.curve.glsDecompose k).sa (cfg.curve.ecExpand e.x e.y))
      (glvFirst cfg k A) :=
  L.ecCondNeg _ _ _ (L.ecExpand_rep he)

theorem rep_glvSecond (L : GroupLaws cfg F E) (k : U256) {e : Affine} {A : E} (he : L.repAffine e A) :
    L.rep (cfg.curve.ecCondNeg (cfg.curve.glsDecompose k).sb
      (cfg.curve.ecExpand (cfg.curve.glsMorph e.x e.y).x (cfg.curve.glsMorph e.x e.y).y))
      (glvSecond L k A) :=
  L.ecCondNeg _ _ _ (L.ecExpand_rep (L.glsMorph e A he))

/-- The subscalars times their bases. -/
def glvSum (L : GroupLaws cfg F E) (k : U256) (A : E) : E :=
  ((cfg.curve.glsDecompose k).a.toNat : Int) • glvFirst cfg k A +
    ((cfg.curve.glsDecompose k).b.toNat : Int) • glvSecond L k A

/-- Scalars that agree modulo `q` act alike on a point that `q` takes to the identity. -/
theorem zsmul_congr_of_modEq {q : Nat} {m n : Int} {A : E} (h : m ≡ n [ZMOD q]) (hA : q • A = 0) :
    m • A = n • A := by
  obtain ⟨t, ht⟩ := h.dvd
  rw [show n = m + t * q by linarith, add_smul, mul_smul, natCast_zsmul, hA, smul_zero, add_zero]

/-- R181: cleared of the cofactor, the decomposition is the scalar. -/
theorem four_smul_glvSum (L : GroupLaws cfg F E) {k : U256} (hk : scalarInDomain cfg k) (A : E) :
    4 • glvSum L k A = 4 • (k.toNat • A) := by
  have order := L.order_smul_four A
  have morph : 4 • L.phi A = (cfg.lambda : Int) • 4 • A := by
    rw [← map_nsmul, L.phi_lambda _ order, natCast_zsmul]
  have value := zsmul_congr_of_modEq (L.decompose k hk) order
  rw [add_smul, mul_comm, mul_smul, ← morph] at value
  rw [smul_comm 4 k.toNat A, ← natCast_zsmul (4 • A) k.toNat, ← value, glvSum, glvFirst, glvSecond]
  split <;> split <;> module

/-- R113 in the decomposition's bounds, the sign word with its correction. -/
theorem signValue_add_lsb {len : Nat} (hlen : len = 127 ∨ len = 128) {a : U128} (pos : 1 ≤ a.toNat)
    (bound : a.toNat ≤ 2 ^ 126) :
    signValue len (recodeSign len a) + (if recodeLsb a then 1 else 0) = a.toNat := by
  have short : 2 ^ 126 ≤ 2 ^ len := Nat.pow_le_pow_right (by decide) (by omega)
  rw [signValue_recodeSign len hlen pos (bound.trans short), sub_add_cancel]

/-- R113 in the decomposition's bounds, a companion (R224). -/
theorem companionValue_recodeCompanion {len : Nat} (hlen : len = 127 ∨ len = 128) (a : U128) {b : U128}
    (bound : b.toNat ≤ 2 ^ 126) :
    companionValue len (recodeSign len a) (recodeCompanion len (recodeSign len a) b) = b.toNat := by
  refine (recodeCompanion_spec len hlen (recodeSign_top len hlen a) rfl ?_).1
  rw [negatives_toNat len hlen]
  have negative := negBelow_lt (recodeSign len a) (len - 1)
  obtain rfl | rfl := hlen
  · norm_num at *; omega
  · norm_num at *; omega

/-! ### From `X` to the result -/

/-- A driver leaves in `R` the encoding of what `X` represents before `AFFINE` (R191). -/
theorem leaves_of_front (L : GroupLaws cfg F E) {i : Instr} (driver : i.isDriver = true) {s : State}
    (idle : s.busy = false) {A : E} (h : L.rep (runMicros cfg (planOf i).front (accept i s)).x A) :
    L.leaves (runCommand cfg i (planOf i) s) A := by
  refine ⟨_, runCommand_idle _ _ _ _ idle, (finished_runPlan cfg i s).2.1, ?_⟩
  have hx := sameIn_runPlan cfg i (planOf i) s .x
  rw [planOf_program_of_driver driver, runMicros_append] at hx
  have before : (runPlan cfg i (planOf i) s).x = (runMicros cfg (planOf i).front (accept i s)).x :=
    Eq.symm hx
  rw [runPlan_r cfg driver, before]
  exact L.ecAffine_rep h

end Drivers

end Sys2Proof.Machine
end

section
/-! PROOFS. The laws of `MUL` and `SIMUL` (spec 45_drivers.md R181, R185, R194 invariants 1, 3 and 8). -/

namespace Sys2Proof.Machine

section Laws

variable {F E : Type} [Field F] [AddCommGroup E] {cfg : Cfg}

/-! ### `MUL` (R180, R181) -/

/-- What the m=2 drivers have when their table is built: the table of the two bases of `k` and `A`, the
recoded words, and the first base for the correction. -/
structure Prepared2 (L : GroupLaws cfg F E) (k : U256) (A : E) (s : State) : Prop where
  table : Table2 L s (glvFirst cfg k A) (glvSecond L k A)
  base : L.rep s.b0 (glvFirst cfg k A)
  s0 : s.s0 = recodeSign 128 (cfg.curve.glsDecompose k).a
  s1 : s.s1 = recodeCompanion 128 s.s0 (cfg.curve.glsDecompose k).b
  lsb : s.lsb = recodeLsb (cfg.curve.glsDecompose k).a

/-- `GENTAB2` builds the table of its bases and keeps the words. -/
theorem prepared2_gentab2 (L : GroupLaws cfg F E) {k : U256} {A : E} {s : State}
    (b0 : L.rep s.b0 (glvFirst cfg k A)) (b1 : L.rep s.b1 (glvSecond L k A))
    (s0 : s.s0 = recodeSign 128 (cfg.curve.glsDecompose k).a)
    (s1 : s.s1 = recodeCompanion 128 s.s0 (cfg.curve.glsDecompose k).b)
    (lsb : s.lsb = recodeLsb (cfg.curve.glsDecompose k).a) :
    Prepared2 L k A (runMicro cfg .gentab2 s) where
  table i hi := by
    rw [runMicro, slot_gentab2 _ _ hi]
    exact rep_gentab2Table L b0 b1 hi
  base := by rw [runMicro, gentab2_eq]; exact b0
  s0 := by rw [runMicro, gentab2_eq]; exact s0
  s1 := by rw [runMicro, gentab2_eq]; exact s1
  lsb := by rw [runMicro, gentab2_eq]; exact lsb

/-- All windows and the correction together are the decomposition (R113, R134, R189). -/
theorem Prepared2.windows (L : GroupLaws cfg F E) {k : U256} {A : E} {s : State} (h : Prepared2 L k A s)
    (hk : scalarInDomain cfg k) :
    ∑ i ∈ Finset.range 64,
        (4 : Int) ^ i • window2Value s.s0 s.s1 (2 * i) (glvFirst cfg k A) (glvSecond L k A) +
      (if s.lsb then 1 else 0 : Int) • glvFirst cfg k A = glvSum L k A := by
  obtain ⟨pos, a_le, b_le⟩ := L.decompose_bounds k hk
  have sign := signValue_add_lsb (.inr rfl) pos a_le
  have companion := companionValue_recodeCompanion (.inr rfl) (cfg.curve.glsDecompose k).a b_le
  rw [← h.s0, ← h.lsb] at sign
  rw [← h.s0, ← h.s1] at companion
  rw [sum_window2Value, glvSum, ← sign, ← companion]
  module

/-- The seed of the m=2 drivers (R180, R186). -/
theorem xHolds_seed2 (L : GroupLaws cfg F E) {s : State} {A B : E} (table : Table2 L s A B) (index : Nat)
    (ct : Bool) :
    XHolds L s (runMicro cfg (.sel2 index ct .x) s) (window2Value s.s0 s.s1 index A B) where
  inputs := sameInputs_runMicro cfg (by simp [MicroOp.onPoints, MicroOp.writes, PointReg.reg]) s
  x := rep_sel2 L table index ct .x

/-- `MUL` from its seed on (R180). -/
theorem Prepared2.mul (L : GroupLaws cfg F E) {k : U256} {A : E} {s : State} (h : Prepared2 L k A s)
    (hk : scalarInDomain cfg k) :
    L.rep (runMicros cfg (mulPlan.seed ++ (mulPlan.ladder.map Ladder.program).getD [] ++ mulPlan.correct ++
      mulPlan.cofactor) s).x (4 • (k.toNat • A)) := by
  have regular := planOf_ladder_regular (i := .mul) (n := 62) rfl rfl
  have ladder := regular.horner (c := 4)
    (f := fun i => window2Value s.s0 s.s1 (2 * i) (glvFirst cfg k A) (glvSecond L k A)) rfl rfl
    (xHolds_seed2 L h.table 126 true)
    fun i ii hii u V hu => hii ▸ hu.window2 h.table true ii
  have final := ((ladder.correctGlv h.base).congr (h.windows L hk)).cofactor
  rw [runMicros_append, runMicros_append, runMicros_append]
  exact rep_congr L final.x (four_smul_glvSum L hk A)

theorem mul_front :
    (planOf .mul).front = [.decomp .ka .lo, .prep .p .lo, .recode2 128] ++ ([.gentab2] ++
      (mulPlan.seed ++ (mulPlan.ladder.map Ladder.program).getD [] ++ mulPlan.correct ++
        mulPlan.cofactor)) := by
  simp only [Plan.front, planOf, mulPlan, List.append_assoc]

theorem rep_mul_front (L : GroupLaws cfg F E) (s : State) {A : E} (hk : scalarInDomain cfg s.ka)
    (hA : L.repAffine s.p A) :
    L.rep (runMicros cfg (planOf .mul).front (accept .mul s)).x (4 • (s.ka.toNat • A)) := by
  obtain ⟨-, -, lsb, s0, s1, b0, b1⟩ := glvSetup cfg .ka .p 128 (accept .mul s)
  have ready := prepared2_gentab2 L (b0 ▸ rep_glvFirst L s.ka hA) (b1 ▸ rep_glvSecond L s.ka hA)
    s0 s1 lsb
  have result := ready.mul L hk
  rw [mul_front, runMicros_append, runMicros_append]
  exact result

theorem mul_leaves (L : GroupLaws cfg F E) {s : State} {A : E} (idle : s.busy = false)
    (hk : scalarInDomain cfg s.ka) (hA : L.repAffine s.p A) : L.mulIsMultiple s A :=
  leaves_of_front L (i := .mul) rfl idle (rep_mul_front L s hk hA)

/-! ### `SIMUL` (R184, R185) -/

/-- What `SIMUL` has when its table is built: the table of the four bases, the recoded words, and the first
base for the correction. -/
structure Prepared4 (L : GroupLaws cfg F E) (k k' : U256) (A B : E) (s : State) : Prop where
  table : Table4 L s (glvFirst cfg k A) (glvSecond L k A) (glvFirst cfg k' B) (glvSecond L k' B)
  base : L.rep s.b0 (glvFirst cfg k A)
  s0 : s.s0 = recodeSign 127 (cfg.curve.glsDecompose k).a
  s1 : s.s1 = recodeCompanion 127 s.s0 (cfg.curve.glsDecompose k).b
  s2 : s.s2 = recodeCompanion 127 s.s0 (cfg.curve.glsDecompose k').a
  s3 : s.s3 = recodeCompanion 127 s.s0 (cfg.curve.glsDecompose k').b
  lsb : s.lsb = recodeLsb (cfg.curve.glsDecompose k).a

/-- `GENTAB4` builds the table of its bases and keeps the words. -/
theorem prepared4_gentab4 (L : GroupLaws cfg F E) {k k' : U256} {A B : E} {s : State}
    (b0 : L.rep s.b0 (glvFirst cfg k A)) (b1 : L.rep s.b1 (glvSecond L k A))
    (b2 : L.rep s.b2 (glvFirst cfg k' B)) (b3 : L.rep s.b3 (glvSecond L k' B))
    (s0 : s.s0 = recodeSign 127 (cfg.curve.glsDecompose k).a)
    (s1 : s.s1 = recodeCompanion 127 s.s0 (cfg.curve.glsDecompose k).b)
    (s2 : s.s2 = recodeCompanion 127 s.s0 (cfg.curve.glsDecompose k').a)
    (s3 : s.s3 = recodeCompanion 127 s.s0 (cfg.curve.glsDecompose k').b)
    (lsb : s.lsb = recodeLsb (cfg.curve.glsDecompose k).a) :
    Prepared4 L k k' A B (runMicro cfg .gentab4 s) where
  table i hi := by
    rw [runMicro, slot_gentab4 _ _ hi]
    exact rep_gentab4Table L b0 b1 b2 b3 hi
  base := by rw [runMicro, gentab4_eq]; exact b0
  s0 := by rw [runMicro, gentab4_eq]; exact s0
  s1 := by rw [runMicro, gentab4_eq]; exact s1
  s2 := by rw [runMicro, gentab4_eq]; exact s2
  s3 := by rw [runMicro, gentab4_eq]; exact s3
  lsb := by rw [runMicro, gentab4_eq]; exact lsb

/-- All columns and the correction together are both decompositions (R113, R136, R189). -/
theorem Prepared4.columns (L : GroupLaws cfg F E) {k k' : U256} {A B : E} {s : State}
    (h : Prepared4 L k k' A B s) (hk : scalarInDomain cfg k) (hk' : scalarInDomain cfg k') :
    ∑ i ∈ Finset.range 127, (2 : Int) ^ i • window4Value s.s0 s.s1 s.s2 s.s3 i (glvFirst cfg k A)
          (glvSecond L k A) (glvFirst cfg k' B) (glvSecond L k' B) +
      (if s.lsb then 1 else 0 : Int) • glvFirst cfg k A = glvSum L k A + glvSum L k' B := by
  obtain ⟨pos, a_le, b_le⟩ := L.decompose_bounds k hk
  obtain ⟨-, a_le', b_le'⟩ := L.decompose_bounds k' hk'
  have sign := signValue_add_lsb (.inl rfl) pos a_le
  have companion {b : U128} (hb : b.toNat ≤ 2 ^ 126) :=
    companionValue_recodeCompanion (.inl rfl) (cfg.curve.glsDecompose k).a hb
  have second := companion b_le
  have third := companion a_le'
  have fourth := companion b_le'
  rw [← h.s0, ← h.lsb] at sign
  rw [← h.s0, ← h.s1] at second
  rw [← h.s0, ← h.s2] at third
  rw [← h.s0, ← h.s3] at fourth
  rw [sum_window4Value, glvSum, glvSum, ← sign, ← second, ← third, ← fourth]
  module

/-- One m=4 iteration: twice `X`, and the column (R184). -/
theorem XHolds.window4 {L : GroupLaws cfg F E} {s t : State} {V A B C D : E} (h : XHolds L s t V)
    (table : Table4 L s A B C D) (ii : BitVec 8) :
    XHolds L s (runMicros cfg [.dbl, .sel4 ii.toNat .tt, .add .x .tt] t)
      ((2 : Int) • V + window4Value s.s0 s.s1 s.s2 s.s3 ii.toNat A B C D) := by
  have doubled := h.dbl
  have selected := rep_sel4 L (table.of_sameInputs doubled.inputs) ii.toNat .tt
  rw [doubled.inputs.s0, doubled.inputs.s1, doubled.inputs.s2, doubled.inputs.s3] at selected
  exact ((doubled.select (m := .sel4 ii.toNat .tt) (by simp [MicroOp.writes, PointReg.reg])).add
    (u := .tt) selected).congr (by module)

theorem xHolds_seed4 (L : GroupLaws cfg F E) {s : State} {A B C D : E} (table : Table4 L s A B C D)
    (index : Nat) :
    XHolds L s (runMicro cfg (.sel4 index .x) s) (window4Value s.s0 s.s1 s.s2 s.s3 index A B C D) where
  inputs := sameInputs_runMicro cfg (by simp [MicroOp.onPoints, MicroOp.writes, PointReg.reg]) s
  x := rep_sel4 L table index .x

/-- `SIMUL` from its seed on (R184). -/
theorem Prepared4.simul (L : GroupLaws cfg F E) {k k' : U256} {A B : E} {s : State}
    (h : Prepared4 L k k' A B s) (hk : scalarInDomain cfg k) (hk' : scalarInDomain cfg k') :
    L.rep (runMicros cfg (simulPlan.seed ++ (simulPlan.ladder.map Ladder.program).getD [] ++
      simulPlan.correct ++ simulPlan.cofactor) s).x (4 • (k.toNat • A + k'.toNat • B)) := by
  have regular := planOf_ladder_regular (i := .simul) (n := 125) rfl rfl
  have ladder := regular.horner (c := 2)
    (f := fun i => window4Value s.s0 s.s1 s.s2 s.s3 i (glvFirst cfg k A) (glvSecond L k A)
      (glvFirst cfg k' B) (glvSecond L k' B)) rfl rfl
    (xHolds_seed4 L h.table 126)
    fun i ii hii u V hu => (hii.trans (Nat.one_mul i)) ▸ hu.window4 h.table ii
  have final := ((ladder.correctGlv h.base).congr (h.columns L hk hk')).cofactor
  rw [runMicros_append, runMicros_append, runMicros_append]
  refine rep_congr L final.x ?_
  rw [smul_add, four_smul_glvSum L hk, four_smul_glvSum L hk', ← smul_add]

theorem simul_front :
    (planOf .simul).front = simulPlan.setup ++ ([.gentab4] ++
      (simulPlan.seed ++ (simulPlan.ladder.map Ladder.program).getD [] ++ simulPlan.correct ++
        simulPlan.cofactor)) := by
  simp only [Plan.front, planOf, simulPlan, List.append_assoc]

theorem rep_simul_front (L : GroupLaws cfg F E) (s : State) {A B : E} (hk : scalarInDomain cfg s.ka)
    (hk' : scalarInDomain cfg s.kb) (hA : L.repAffine s.p A) (hB : L.repAffine s.q B) :
    L.rep (runMicros cfg (planOf .simul).front (accept .simul s)).x
      (4 • (s.ka.toNat • A + s.kb.toNat • B)) := by
  obtain ⟨-, ⟨lsb, s0, s1, s2, s3⟩, b0, b1, b2, b3⟩ := glvSetup4 cfg (accept .simul s)
  have ready := prepared4_gentab4 L (b0 ▸ rep_glvFirst L s.ka hA) (b1 ▸ rep_glvSecond L s.ka hA)
    (b2 ▸ rep_glvFirst L s.kb hB) (b3 ▸ rep_glvSecond L s.kb hB) s0 s1 s2 s3 lsb
  have result := ready.simul L hk hk'
  rw [simul_front, runMicros_append, runMicros_append]
  exact result

end Laws

/-! ### The obligations -/

/-- Settles O56: each m=2 iteration takes `X` to `4·X + W(II)`, so the ladder is the Horner sum of the
windows; with the correction that is the decomposition of `KA`, and the cofactor makes it `4·KA·A`. -/
theorem mulLaw : Obligations.MulLaw := by
  intro F E _ _ cfg L s A idle hk hA
  have leaves := mul_leaves L idle hk hA.1
  exact ⟨leaves, _, leaves, L.order_smul_four _⟩

/-- Settles O58: as O56, with the columns of the m=4 table. -/
theorem simulLaw : Obligations.SimulLaw := by
  intro F E _ _ cfg L s A B idle hk hk' hA hB
  have leaves := leaves_of_front L (i := .simul) rfl idle (rep_simul_front L s hk hk' hA.1 hB.1)
  refine ⟨leaves, _, _, mul_leaves L idle hk hA.1,
    mul_leaves L (s := { s with ka := s.kb, p := s.q }) idle hk' hB.1, ?_⟩
  rw [← smul_add]
  exact leaves

end Sys2Proof.Machine
end

section
/-! PROOFS. The laws of `MUL_GEN` and `SIMUL_GEN` (spec 45_drivers.md R183, R187, R194 invariants 2 and 4):
the comb columns sum to the working scalar. -/

namespace Sys2Proof.Machine

/-! ### The columns of a comb buffer (44_comb_recoders.md R154 to R158) -/

/-- A column of the comb: its sign times what its rows select (R157, R158). -/
def combColumn (d rows : Nat) (b : U256) (c : Nat) : Int :=
  dig b c * (1 + ∑ wp ∈ Finset.Ico 1 (rows + 1), bitInt b (wp * d + c) * 2 ^ (d * wp))

theorem combColumn_succ (d rows : Nat) (b : U256) (c : Nat) :
    combColumn d (rows + 1) b c =
      combColumn d rows b c + bitInt b ((rows + 1) * d + c) * dig b c * 2 ^ (d * (rows + 1)) := by
  rw [combColumn, combColumn, Finset.sum_Ico_succ_top (by omega)]
  ring

/-- Column by column or bit by bit, the buffer reads the same. -/
theorem sum_combColumn (d rows : Nat) (b : U256) :
    ∑ c ∈ Finset.range d, 2 ^ c * combColumn d rows b c =
      (∑ c ∈ Finset.range d, dig b c * 2 ^ c) +
        ∑ i ∈ Finset.Ico d (d * (rows + 1)), bitInt b i * dig b (i % d) * 2 ^ i := by
  induction rows with
  | zero => simp [combColumn, mul_comm]
  | succ rows ih =>
    have row : ∑ i ∈ Finset.Ico (d * (rows + 1)) (d * (rows + 1 + 1)), bitInt b i * dig b (i % d) * 2 ^ i =
        ∑ c ∈ Finset.range d, 2 ^ c * (bitInt b ((rows + 1) * d + c) * dig b c * 2 ^ (d * (rows + 1))) := by
      rw [Finset.sum_Ico_eq_sum_range, Nat.mul_succ d (rows + 1), Nat.add_sub_cancel_left]
      refine Finset.sum_congr rfl fun c hc => ?_
      rw [Nat.mul_add_mod, Nat.mod_eq_of_lt (Finset.mem_range.1 hc), mul_comm d (rows + 1), pow_add]
      ring
    rw [← Finset.sum_Ico_consecutive _ (Nat.le_mul_of_pos_right d rows.succ_pos)
      (Nat.mul_le_mul_left d (Nat.le_succ (rows + 1))), ← add_assoc, ← ih, row, ← Finset.sum_add_distrib]
    exact Finset.sum_congr rfl fun c _ => by rw [combColumn_succ, mul_add]

/-- The columns are the reading of the buffer less what is above it (R154). -/
theorem sum_combColumn_eq_combValue (d rows : Nat) (b : U256) :
    ∑ c ∈ Finset.range d, 2 ^ c * combColumn d rows b c =
      combValue d (d * (rows + 1)) b -
        ((b >>> (d * (rows + 1))).toNat : Int) * 2 ^ (d * (rows + 1)) := by
  rw [sum_combColumn, combValue]
  ring

theorem comb72Value_eq (b : U256) (vp ep : Nat) :
    comb72Value b vp ep = 2 ^ (18 * vp) * combColumn 36 6 b (vp * 18 + ep) := by
  simp only [comb72Value, combColumn, Nat.add_assoc]
  ring

theorem comb81Value_eq (b : U256) (ep : Nat) : comb81Value b ep = combColumn 32 7 b ep := rfl

/-- The two sub-tables of tuning 72 together run over its 36 columns. -/
theorem sum_comb72Value (b : U256) :
    ∑ ep ∈ Finset.range 18, 2 ^ ep * (comb72Value b 0 ep + comb72Value b 1 ep) =
      combValue 36 252 b - ((b >>> 252).toNat : Int) * 2 ^ 252 := by
  rw [← sum_combColumn_eq_combValue 36 6 b, Finset.sum_range_add _ 18 18, ← Finset.sum_add_distrib]
  refine Finset.sum_congr rfl fun ep _ => ?_
  rw [comb72Value_eq, comb72Value_eq, Nat.zero_mul, Nat.zero_add, Nat.one_mul, pow_add]
  ring

/-- Two columns an iteration: the columns of tuning 81 in the weights of the m=2 ladder (R186). -/
theorem sum_pairs (C : Nat → Int) (n : Nat) :
    ∑ i ∈ Finset.range n, 4 ^ i * (2 * C (2 * i + 1) + C (2 * i)) =
      ∑ c ∈ Finset.range (2 * n), 2 ^ c * C c := by
  induction n with
  | zero => rfl
  | succ n ih =>
    have weight : (4 : Int) ^ n = 2 ^ (2 * n) := by rw [pow_mul]; norm_num
    rw [Finset.sum_range_succ, ih, Nat.mul_succ, Finset.sum_range_succ, Finset.sum_range_succ, weight, pow_succ]
    ring

theorem sum_comb81Value (b : U256) :
    ∑ c ∈ Finset.range 32, 2 ^ c * comb81Value b c = combValue 32 256 b := by
  have above : (b >>> 256).toNat = 0 := by
    rw [BitVec.toNat_ushiftRight, Nat.shiftRight_eq_div_pow, Nat.div_eq_of_lt b.isLt]
  simp only [comb81Value_eq]
  rw [sum_combColumn_eq_combValue 32 7 b, above]
  simp

section Laws

variable {F E : Type} [Field F] [AddCommGroup E] {cfg : Cfg}

/-! ### The comb recoding of a scalar of the domain -/

/-- The comb buffer and bit are those of the scalar `k` (R151). -/
structure PreparedComb (cfg : Cfg) (d l : Nat) (k : U256) (s : State) : Prop where
  rb : s.rb = combRecode d l (combScalar k (cfg.curve.negModQ k))
  clsb : s.clsb = combLsb k

theorem preparedComb_combrec (cfg : Cfg) (d l : Nat) (s : State) :
    PreparedComb cfg d l s.ka (combrec cfg d l s) :=
  ⟨(combrec_values cfg d l s).2, (combrec_values cfg d l s).1⟩

theorem PreparedComb.gentab2 {d l : Nat} {k : U256} {s : State} (h : PreparedComb cfg d l k s) :
    PreparedComb cfg d l k (runMicro cfg .gentab2 s) where
  rb := by rw [runMicro, gentab2_eq]; exact h.rb
  clsb := by rw [runMicro, gentab2_eq]; exact h.clsb

theorem PreparedComb.value (L : GroupLaws cfg F E) {d l : Nat} {k : U256} {s : State}
    (tuning : (d = 36 ∧ l = 252) ∨ (d = 32 ∧ l = 256)) (h : PreparedComb cfg d l k s)
    (hk : scalarInDomain cfg k) : combValue d l s.rb = workingScalar cfg k := by
  obtain ⟨odd, -, below⟩ := workingScalar_spec L.parameters.order_odd hk
  rw [h.rb]
  exact (combStage_combRecode tuning (combScalar_toNat hk L.negModQ) odd
    (below.trans L.parameters.order_high)).value

theorem PreparedComb.above (L : GroupLaws cfg F E) {k : U256} {s : State}
    (h : PreparedComb cfg 36 252 k s) (hk : scalarInDomain cfg k) :
    (s.rb >>> 252).toNat = (topCarry s.rb).toNat := by
  obtain ⟨odd, -, below⟩ := workingScalar_spec L.parameters.order_odd hk
  have number := combScalar_toNat hk L.negModQ
  rw [h.rb]
  exact combRecode72_above (number ▸ odd) (number ▸ below.trans L.parameters.order_high)

/-- The sign of a comb recoding, `−1` when `CLSB = 1`. -/
def combSign (clsb : Bool) : Int := if clsb then -1 else 1

/-- The signed working scalar acts on `G` as the scalar: `−(q − k)·G = k·G` (R183). -/
theorem PreparedComb.sign_smul (L : GroupLaws cfg F E) {d l : Nat} {k : U256} {s : State}
    (h : PreparedComb cfg d l k s) (hk : scalarInDomain cfg k) :
    (combSign s.clsb * (workingScalar cfg k : Int)) • L.g = k.toNat • L.g := by
  rw [← natCast_zsmul L.g k.toNat, h.clsb, combSign, workingScalar]
  refine zsmul_congr_of_modEq (q := cfg.qOrder) ?_ L.order_smul_generator
  cases combLsb k with
  | false => simp
  | true =>
    rw [if_pos rfl, if_pos rfl, Nat.cast_sub hk.2.le]
    exact Int.modEq_iff_dvd.2 ⟨1, by ring⟩

/-! ### `MUL_GEN` (R182, R183) -/

/-- What one iteration of `MUL_GEN` adds: column `ep` of both sub-tables. -/
def combPair (L : GroupLaws cfg F E) (b : U256) (ep : Nat) : E :=
  (comb72Value b 0 ep + comb72Value b 1 ep) • L.g

/-- One comb iteration: twice `X`, and the two columns (R182). -/
theorem XHolds.comb72 {L : GroupLaws cfg F E} {s t : State} {V : E} (h : XHolds L s t V) (ii : BitVec 8) :
    XHolds L s (runMicros cfg [.dbl, .selcomb72 ii.toNat, .add .x .ts, .add .x .tt] t)
      ((2 : Int) • V + combPair L s.rb ii.toNat) := by
  have doubled := h.dbl
  have ts := rep_selcomb72_ts L (runMicro cfg .dbl t) ii.toNat
  have tt := rep_selcomb72_tt L (runMicro cfg .dbl t) ii.toNat
  rw [doubled.inputs.rb] at ts tt
  have selected := doubled.select (m := .selcomb72 ii.toNat) (by simp [MicroOp.writes])
  exact ((selected.add (u := .ts) ts).add (u := .tt) tt).congr (by rw [combPair]; module)

theorem xHolds_seed72 (L : GroupLaws cfg F E) (s : State) (ep : Nat) :
    XHolds L s (runMicros cfg [.selcomb72 ep, .add .ts .tt] s) (combPair L s.rb ep) where
  inputs := (sameInputs_runMicro cfg (m := .selcomb72 ep) (by simp [MicroOp.onPoints, MicroOp.writes]) s).trans
    (sameInputs_runMicro cfg (m := .add .ts .tt) (by simp [MicroOp.onPoints, MicroOp.writes]) _)
  x := by
    rw [combPair, add_smul]
    exact L.ecAdd _ _ _ _ (rep_selcomb72_ts L s ep) (rep_selcomb72_tt L s ep)

/-- The carry correction (R182, R192). -/
theorem XHolds.correctFix {L : GroupLaws cfg F E} {s t : State} {V : E} (h : XHolds L s t V) :
    XHolds L s (runMicro cfg .correctFix t) (V + ((topCarry s.rb).toNat * 2 ^ 252 : Int) • L.g) where
  inputs := h.inputs.trans (sameInputs_runMicro cfg (by simp [MicroOp.onPoints, MicroOp.writes]) t)
  x := by
    have sum : L.rep (runMicro cfg .correctFix t).x (if topCarry t.rb then V + 2 ^ 252 • L.g else V) :=
      L.ecCondAdd_fix _ _ _ h.x
    refine rep_congr L sum ?_
    rw [h.inputs.rb]
    cases topCarry s.rb with
    | false => simp
    | true =>
      rw [if_pos rfl, Bool.toNat_true, Nat.cast_one, one_mul, ← natCast_zsmul, Nat.cast_pow,
        Nat.cast_ofNat]

/-- The sign correction (R182, R192). -/
theorem XHolds.correctSign {L : GroupLaws cfg F E} {s t : State} {V : E} (h : XHolds L s t V) :
    XHolds L s (runMicro cfg .correctSign t) (combSign s.clsb • V) where
  inputs := h.inputs.trans (sameInputs_runMicro cfg (by simp [MicroOp.onPoints, MicroOp.writes]) t)
  x := by
    have signed : L.rep (runMicro cfg .correctSign t).x (if t.clsb then -V else V) :=
      L.ecCondNeg _ _ _ h.x
    refine rep_congr L signed ?_
    rw [h.inputs.clsb, combSign]
    cases s.clsb <;> simp

/-- All columns and the top carry together are the working scalar (R154, R155). -/
theorem PreparedComb.columns72 (L : GroupLaws cfg F E) {k : U256} {s : State}
    (h : PreparedComb cfg 36 252 k s) (hk : scalarInDomain cfg k) :
    ∑ ep ∈ Finset.range 18, (2 : Int) ^ ep • combPair L s.rb ep +
      ((topCarry s.rb).toNat * 2 ^ 252 : Int) • L.g = (workingScalar cfg k : Int) • L.g := by
  have value := h.value L (.inl ⟨rfl, rfl⟩) hk
  have above := h.above L hk
  have columns := sum_comb72Value s.rb
  rw [value, above] at columns
  simp only [combPair, smul_smul]
  rw [← Finset.sum_smul, columns, ← add_smul, sub_add_cancel]

/-- `MUL_GEN` from its seed to its sign correction (R182). -/
theorem PreparedComb.mulGen (L : GroupLaws cfg F E) (mc : Bool) {k : U256} {s : State}
    (h : PreparedComb cfg 36 252 k s) (hk : scalarInDomain cfg k) :
    XHolds L s (runMicros cfg ((mulGenPlan mc).seed ++
      ((mulGenPlan mc).ladder.map Ladder.program).getD [] ++ (mulGenPlan mc).correct) s)
      (k.toNat • L.g) := by
  have regular := planOf_ladder_regular (i := .mulGen mc) (n := 16) rfl rfl
  have ladder := regular.horner (c := 2) (f := combPair L s.rb) rfl rfl (xHolds_seed72 L s 17)
    fun i ii hii u V hu => (hii.trans (Nat.one_mul i)) ▸ hu.comb72 ii
  have final := (ladder.correctFix.congr (h.columns72 L hk)).correctSign
  rw [smul_smul, h.sign_smul L hk] at final
  rw [runMicros_append, runMicros_append]
  exact final

theorem mulGen_front (mc : Bool) :
    (planOf (.mulGen mc)).front = [.combrec72] ++ ((mulGenPlan mc).seed ++
      ((mulGenPlan mc).ladder.map Ladder.program).getD [] ++ (mulGenPlan mc).correct ++
        (mulGenPlan mc).cofactor) := by
  simp only [Plan.front, planOf, mulGenPlan, List.append_assoc, List.nil_append]

theorem rep_mulGen_front (L : GroupLaws cfg F E) (mc : Bool) (s : State) (hk : scalarInDomain cfg s.ka) :
    L.rep (runMicros cfg (planOf (.mulGen mc)).front (accept (.mulGen mc) s)).x
      (if mc then 4 • (s.ka.toNat • L.g) else s.ka.toNat • L.g) := by
  have ready := preparedComb_combrec cfg 36 252 (accept (.mulGen mc) s)
  have corrected := ready.mulGen L mc hk
  rw [mulGen_front, runMicros_append, runMicros_append,
    show runMicros cfg [.combrec72] (accept (.mulGen mc) s) = combrec cfg 36 252 (accept (.mulGen mc) s)
      from rfl]
  cases mc with
  | false =>
    rw [show (mulGenPlan false).cofactor = [] from rfl, runMicros_nil]
    exact corrected.x
  | true => exact corrected.cofactor.x

theorem mulGen_leaves (L : GroupLaws cfg F E) (mc : Bool) {s : State} (idle : s.busy = false)
    (hk : scalarInDomain cfg s.ka) :
    L.leaves (runCommand cfg (.mulGen mc) (mulGenPlan mc) s)
      (if mc then 4 • (s.ka.toNat • L.g) else s.ka.toNat • L.g) :=
  leaves_of_front L (i := .mulGen mc) rfl idle (rep_mulGen_front L mc s hk)

/-! ### `SIMUL_GEN` (R186, R187) -/

/-- A column of tuning 81 with the folded sign (R188). -/
def combSigned (s : State) (c : Nat) : Int := combSign s.clsb * comb81Value s.rb c

/-- What phase B adds beside the window: two comb columns (R186). -/
def combTerm (L : GroupLaws cfg F E) (s : State) (i : Nat) : E :=
  if 16 ≤ i then 0 else (2 * combSigned s (2 * i + 1) + combSigned s (2 * i)) • L.g

/-- One comb column of phase B. -/
theorem XHolds.comb81 {L : GroupLaws cfg F E} {s t : State} {V : E} (h : XHolds L s t V) (ep : Nat) :
    XHolds L s (runMicros cfg [.dbl, .selcomb81 ep, .add .x .tt] t)
      ((2 : Int) • V + combSigned s ep • L.g) := by
  have doubled := h.dbl
  have tt := rep_selcomb81 L (runMicro cfg .dbl t) ep
  rw [doubled.inputs.rb, doubled.inputs.clsb] at tt
  exact ((doubled.select (m := .selcomb81 ep) (by simp [MicroOp.writes])).add (u := .tt) tt).congr
    (by rw [combSigned, combSign]; module)

/-- One iteration of phase B: four times `X`, two comb columns and the window (R186). -/
theorem XHolds.mixed {L : GroupLaws cfg F E} {s t : State} {V A B : E} (h : XHolds L s t V)
    (table : Table2 L s A B) (ii : BitVec 8) :
    XHolds L s (runMicros cfg (mixedOps ii) t)
      ((4 : Int) • V + (window2Value s.s0 s.s1 ii.toNat A B +
        (2 * combSigned s (ii.toNat + 1) + combSigned s ii.toNat) • L.g)) := by
  have columns := (h.comb81 (ii.toNat + 1)).comb81 ii.toNat
  have window := rep_sel2 L (table.of_sameInputs columns.inputs) ii.toNat false .tt
  rw [columns.inputs.s0, columns.inputs.s1] at window
  exact ((columns.select (m := .sel2 ii.toNat false .tt) (by simp [MicroOp.writes, PointReg.reg])).add
    (u := .tt) window).congr (by module)

/-- The comb columns of phase B together are the comb scalar's multiple of `G` (R187). -/
theorem PreparedComb.columns81 (L : GroupLaws cfg F E) {k : U256} {s : State}
    (h : PreparedComb cfg 32 256 k s) (hk : scalarInDomain cfg k) :
    ∑ i ∈ Finset.range 64, (4 : Int) ^ i • combTerm L s i = k.toNat • L.g := by
  have upper : ∑ i ∈ Finset.range 48, (4 : Int) ^ (16 + i) • combTerm L s (16 + i) = 0 :=
    Finset.sum_eq_zero fun i _ => by rw [combTerm, if_pos (Nat.le_add_right 16 i), smul_zero]
  have lower : ∑ i ∈ Finset.range 16, (4 : Int) ^ i • combTerm L s i =
      (∑ i ∈ Finset.range 16, 4 ^ i * (2 * combSigned s (2 * i + 1) + combSigned s (2 * i))) • L.g := by
    rw [Finset.sum_smul]
    refine Finset.sum_congr rfl fun i hi => ?_
    rw [combTerm, if_neg (Nat.not_le.2 (Finset.mem_range.1 hi)), smul_smul]
  have columns : ∑ c ∈ Finset.range (2 * 16), 2 ^ c * combSigned s c =
      combSign s.clsb * (workingScalar cfg k : Int) := by
    rw [← h.value L (.inr ⟨rfl, rfl⟩) hk, ← sum_comb81Value, Finset.mul_sum]
    exact Finset.sum_congr rfl fun c _ => mul_left_comm _ _ _
  rw [Finset.sum_range_add _ 16 48, upper, add_zero, lower, sum_pairs, columns, h.sign_smul L hk]

/-- The comb columns leave the table and the words of the windows as they are, so each iteration adds both
of its parts (R186). -/
theorem XHolds.simulGen {L : GroupLaws cfg F E} {s t : State} {V A B : E} (h : XHolds L s t V)
    (table : Table2 L s A B) {i : Nat} {ii : BitVec 8} (hii : ii.toNat = 2 * i) :
    XHolds L s (runMicros cfg (if 32 ≤ ii.toNat then window2Ops false ii else mixedOps ii) t)
      ((4 : Int) • V + (window2Value s.s0 s.s1 (2 * i) A B + combTerm L s i)) := by
  rw [combTerm, ← hii]
  by_cases phaseA : 16 ≤ i
  · rw [if_pos (by omega), if_pos phaseA, add_zero]
    exact h.window2 table false ii
  · rw [if_neg (by omega), if_neg phaseA]
    exact h.mixed table ii

/-- `SIMUL_GEN` from its seed on (R186). -/
theorem Prepared2.simulGen (L : GroupLaws cfg F E) {k k' : U256} {B : E} {s : State}
    (h : Prepared2 L k' B s) (comb : PreparedComb cfg 32 256 k s) (hk : scalarInDomain cfg k)
    (hk' : scalarInDomain cfg k') :
    L.rep (runMicros cfg (simulGenPlan.seed ++ (simulGenPlan.ladder.map Ladder.program).getD [] ++
      simulGenPlan.correct ++ simulGenPlan.cofactor) s).x (4 • (k.toNat • L.g + k'.toNat • B)) := by
  have regular := planOf_ladder_regular (i := .simulGen) (n := 62) rfl rfl
  have seed := (xHolds_seed2 L h.table 126 false).congr (add_zero _).symm
  have ladder := regular.horner (c := 4) (r := 2)
    (f := fun i => window2Value s.s0 s.s1 (2 * i) (glvFirst cfg k' B) (glvSecond L k' B) + combTerm L s i)
    rfl rfl seed fun i ii hii u V hu => hu.simulGen h.table hii
  have final := (ladder.correctGlv h.base).cofactor
  rw [runMicros_append, runMicros_append, runMicros_append]
  refine rep_congr L final.x ?_
  simp only [smul_add, Finset.sum_add_distrib]
  rw [← four_smul_glvSum L hk' B, ← h.windows L hk', ← comb.columns81 L hk]
  module

theorem simulGen_front :
    (planOf .simulGen).front = (planOf .simulGen).setup ++ ([.gentab2] ++
      (simulGenPlan.seed ++ (simulGenPlan.ladder.map Ladder.program).getD [] ++ simulGenPlan.correct ++
        simulGenPlan.cofactor)) := by
  simp only [Plan.front, planOf, simulGenPlan, List.append_assoc]

theorem rep_simulGen_front (L : GroupLaws cfg F E) (s : State) {B : E} (hk : scalarInDomain cfg s.ka)
    (hk' : scalarInDomain cfg s.kb) (hB : L.repAffine s.q B) :
    L.rep (runMicros cfg (planOf .simulGen).front (accept .simulGen s)).x
      (4 • (s.ka.toNat • L.g + s.kb.toNat • B)) := by
  obtain ⟨-, -, lsb, s0, s1, b0, b1⟩ := glvSetup cfg .kb .q 128 (accept .simulGen s)
  have ka : (runMicros cfg [.decomp .kb .lo, .prep .q .lo, .recode2 128] (accept .simulGen s)).ka = s.ka :=
    (runMicros_sameIn_of_notMem_writes (reg := .ka) cfg _ _ (by decide)).symm
  have comb := preparedComb_combrec cfg 32 256
    (runMicros cfg [.decomp .kb .lo, .prep .q .lo, .recode2 128] (accept .simulGen s))
  rw [ka] at comb
  have ready := prepared2_gentab2 L (s := combrec cfg 32 256
      (runMicros cfg [.decomp .kb .lo, .prep .q .lo, .recode2 128] (accept .simulGen s)))
    (b0 ▸ rep_glvFirst L s.kb hB) (b1 ▸ rep_glvSecond L s.kb hB) s0 s1 lsb
  have result := ready.simulGen L comb.gentab2 hk hk'
  rw [simulGen_front, runMicros_append, runMicros_simulGenSetup, runMicros_append]
  exact result

end Laws

/-! ### The obligations -/

/-- Settles O57: each comb iteration takes `X` to `2·X` and two columns, so the ladder is the reading of
`RB`; the top carry completes it to the working scalar, and the sign turns `q − k` back into `k`. -/
theorem mulGenLaw : Obligations.MulGenLaw := by
  intro F E _ _ cfg L mc s idle hk
  have mul := mul_leaves L (s := { s with p := cfg.gAffine }) idle hk L.generator_affine
  exact ⟨mulGen_leaves L mc idle hk, s.ka.toNat • L.g, mulGen_leaves L false idle hk,
    mulGen_leaves L true idle hk, mul⟩

/-- Settles O59: as O56 for `KB` and `Q`, with the comb columns of `KA` between the windows. -/
theorem simulGenLaw : Obligations.SimulGenLaw := by
  intro F E _ _ cfg L s B idle hk hk' hB
  have leaves := leaves_of_front L (i := .simulGen) rfl idle (rep_simulGen_front L s hk hk' hB.1)
  refine ⟨leaves, _, _, mulGen_leaves L true idle hk,
    mul_leaves L (s := { s with ka := s.kb, p := s.q }) idle hk' hB.1, ?_⟩
  rw [if_pos rfl, ← smul_add]
  exact leaves

end Sys2Proof.Machine
end
